-- ==== Sys2Proof/Word.lean ====
section
/-!
DEFINITION. The words of the block: the bit-vector types the spec gives a width.
-/

namespace Sys2Proof

/-- A byte: a command byte, an accumulator, a button code (spec 00 R9, R7: unsigned, bit 0 least significant). -/
abbrev Byte := BitVec 8

/-- A mark or a space in microseconds, `W_US` = 32 bits unsigned (spec 00 R6). -/
abbrev Duration := BitVec 32

/-- A value of the clock `now` in milliseconds, `W_TIME` = 32 bits unsigned (spec 00 R6). -/
abbrev Time := BitVec 32

/-- A release deadline in milliseconds, `W_DEADLINE` = 33 bits (spec 00 R6, spec 10 R28). -/
abbrev Deadline := BitVec 33

/-- The transaction word `TXN[99:0]` (spec 30 R70). -/
abbrev TxnWord := BitVec 100

/-- The response word `RSP[31:0]` (spec 30 R74). -/
abbrev RspWord := BitVec 32

/-- The read data `rdata[8:0]` of a response (spec 30 R76). -/
abbrev ReadData := BitVec 9

/-- The event slot `E[9:0]` of a response (spec 30 R75). -/
abbrev EventWord := BitVec 10

end Sys2Proof
end

