-- ==== Sys2Proof/Syntax.lean ====
section
/-!
DEFINITION. Syntax: the seven transactions of set T1 (one constructor per row of spec/opcode_table.json), the raw
fields of a transaction word, and the script notation of spec 30 R83, R84 (lines and pseudo-instructions).
-/

namespace Sys2Proof

/-- The transactions of the opcode table (spec 30 R71). Every transaction carries the stamp `now` (R70, R73); those
that do not read it ignore it (log 9). Operands are typed by their field widths, so an ill-formed transaction
cannot be built; what makes a WORD well formed is in WellFormed.lean. -/
inductive Instr where
  /-- `NOP [@now]` -/
  | nop (now : Time)
  /-- `CONNECT [@now]` -/
  | connect (now : Time)
  /-- `PULSE mark, space @now` -/
  | pulse (mark space : Duration) (now : Time)
  /-- `TICK @now` -/
  | tick (now : Time)
  /-- `POLL [@now]` -/
  | poll (now : Time)
  /-- `CURRENT [@now]` -/
  | current (now : Time)
  /-- `ISPRESSED code [@now]` -/
  | isPressed (code : Byte) (now : Time)
  deriving DecidableEq, Repr

/-- The four fields of a transaction word, before anything is checked (spec 30 R70). -/
structure TxnFields where
  /-- `TXN[99:96]` -/
  op : BitVec 4
  /-- `TXN[95:64]` -/
  now : Time
  /-- `TXN[63:32]` -/
  a : BitVec 32
  /-- `TXN[31:0]` -/
  b : BitVec 32
  deriving DecidableEq, Repr

/-- The pseudo-instructions of spec 30 R84; all pulses of one carry its `now`. -/
inductive Pseudo where
  | start (now : Time)
  | repeatSignal (now : Time)
  | bit0 (now : Time)
  | bit1 (now : Time)
  /-- `GAP g @t`, `g` microseconds of space -/
  | gap (g : Duration) (now : Time)
  | byte (v : Byte) (now : Time)
  /-- `FRAME4 p, q, c, i @t` -/
  | frame4 (p q c i : Byte) (now : Time)
  /-- `FRAME p, c @t` -/
  | frame (p c : Byte) (now : Time)
  deriving DecidableEq, Repr

/-- One line of a script, read but not yet checked (spec 30 R83): a mnemonic, natural operands, and the stamp when
one is written. -/
structure ScriptLine where
  mnemonic : List Char
  operands : List Nat
  now : Option Nat
  deriving DecidableEq, Repr

end Sys2Proof
end

