-- ==== Sys2Proof/WellFormed.lean ====
section
/-!
DEFINITION. Well-formedness: when a transaction word's fields are legal (spec 44 R160, spec 30 R71, R73, R77), and when
a pseudo-instruction may be written (spec 30 R84).
-/

namespace Sys2Proof

/-- The opcodes of transactions that take no operand: `a` and `b` must both be 0 (spec 30 R71). -/
def TxnFields.takesNoOperand (f : TxnFields) : Bool :=
  f.op == 0x0#4 || f.op == 0x1#4 || f.op == 0x3#4 || f.op == 0x4#4 || f.op == 0x5#4

/-- `legal(op, a, b)` of spec 44 R160, clause by clause. The stamp `now` plays no part (spec 30 R73). -/
def TxnFields.legal (f : TxnFields) : Bool :=
  (f.takesNoOperand && f.a == 0#32 && f.b == 0#32)
    || f.op == 0x2#4
    || (f.op == 0x6#4 && f.a == 0#32 && f.b.extractLsb' 8 24 == 0#24)

/-- `GAP g` is written with `g >= 13940` (spec 30 R84); the other pseudo-instructions have no side condition. -/
def Pseudo.wf : Pseudo → Bool
  | .gap g _ => decide (13940 ≤ g.toNat)
  | .start _ => true
  | .repeatSignal _ => true
  | .bit0 _ => true
  | .bit1 _ => true
  | .byte _ _ => true
  | .frame4 _ _ _ _ _ => true
  | .frame _ _ _ => true

end Sys2Proof
end

