-- ==== Sys2Proof/Decode.lean ====
section
/-!
DEFINITION. Decoding, total on every 100-bit word and rejecting by name, and after it the encoder, both from the
tables of spec 30 R70, R71, R73, R77. The bit numbers are the spec's: bit 0 is the least significant (spec 00 R7).
-/

namespace Sys2Proof

/-- Why a word is illegal (spec 30 R77, spec 44 R168). The response does not say which: it is the same for all. -/
inductive Reject where
  /-- an opcode in 0x7..0xF -/
  | reservedOpcode (op : BitVec 4)
  /-- field `a` must be 0 and is not -/
  | nonZeroA
  /-- field `b` (for `ISPRESSED`, `b[31:8]`) must be 0 and is not -/
  | nonZeroB
  deriving DecidableEq, Repr

/-- What the decoder answers. -/
inductive Decoded where
  | instr (i : Instr)
  | reject (r : Reject)
  deriving DecidableEq, Repr

/-- The fields of a transaction word (spec 30 R70). -/
def splitWord (w : TxnWord) : TxnFields :=
  { op := w.extractLsb' 96 4
    now := w.extractLsb' 64 32
    a := w.extractLsb' 32 32
    b := w.extractLsb' 0 32 }

/-- The word with these fields (spec 30 R70). -/
def joinWord (f : TxnFields) : TxnWord :=
  f.op ++ f.now ++ f.a ++ f.b

/-- `i`, provided both operand fields are 0 (spec 30 R71, R73). -/
def withoutOperands (f : TxnFields) (i : Instr) : Decoded :=
  if f.a ≠ 0#32 then .reject .nonZeroA
  else if f.b ≠ 0#32 then .reject .nonZeroB
  else .instr i

/-- `ISPRESSED`'s fields: `a` and `b[31:8]` must be 0, `code = b[7:0]` (spec 30 R71, R72). -/
def decodeIsPressed (f : TxnFields) : Decoded :=
  if f.a ≠ 0#32 then .reject .nonZeroA
  else if f.b.extractLsb' 8 24 ≠ 0#24 then .reject .nonZeroB
  else .instr (.isPressed (f.b.extractLsb' 0 8) f.now)

/-- The opcode map (spec 30 R71). -/
def decodeFields (f : TxnFields) : Decoded :=
  match f.op.toNat with
  | 0x0 => withoutOperands f (.nop f.now)
  | 0x1 => withoutOperands f (.connect f.now)
  | 0x2 => .instr (.pulse f.a f.b f.now)
  | 0x3 => withoutOperands f (.tick f.now)
  | 0x4 => withoutOperands f (.poll f.now)
  | 0x5 => withoutOperands f (.current f.now)
  | 0x6 => decodeIsPressed f
  | _ => .reject (.reservedOpcode f.op)

/-- The transaction a word encodes, or why it encodes none. -/
def decode (w : TxnWord) : Decoded :=
  decodeFields (splitWord w)

/-- The decoder's transaction, without the name of a rejection. -/
def Decoded.toOption : Decoded → Option Instr
  | .instr i => some i
  | .reject _ => none

/-- The fields a transaction is written with (spec 30 R71, R72). -/
def encodeFields : Instr → TxnFields
  | .nop now => { op := 0x0#4, now := now, a := 0#32, b := 0#32 }
  | .connect now => { op := 0x1#4, now := now, a := 0#32, b := 0#32 }
  | .pulse mark space now => { op := 0x2#4, now := now, a := mark, b := space }
  | .tick now => { op := 0x3#4, now := now, a := 0#32, b := 0#32 }
  | .poll now => { op := 0x4#4, now := now, a := 0#32, b := 0#32 }
  | .current now => { op := 0x5#4, now := now, a := 0#32, b := 0#32 }
  | .isPressed code now => { op := 0x6#4, now := now, a := 0#32, b := 0#24 ++ code }

/-- The word of a transaction. -/
def encode (i : Instr) : TxnWord :=
  joinWord (encodeFields i)

/-- The transaction word of a row of the opcode table: the table numbers the bits of the one 100-bit word as spec 30
R70 does, and the block's word has no bit above bit 99 (log 10). -/
def tableWord (nbits w : Nat) : TxnWord :=
  BitVec.ofNat 100 (w % 2 ^ nbits)

/-- The transaction the decoder reads from the bits `w` of a table row (log 10). -/
def decodeTableWord (nbits w : Nat) : Option Instr :=
  (decode (tableWord nbits w)).toOption

end Sys2Proof
end

