-- ==== Sys2Proof/Config.lean ====
section
/-!
DEFINITION. The configuration: the constants spec 00 R5 fixes, and the two parameters spec 00 R6 leaves open.
The open parameters are opaque: nothing can be proved that depends on which value they have.
-/

namespace Sys2Proof

/-- `T_REPEAT_MIN`, microseconds (spec 00 R5). -/
def Config.repeatMin : Nat := 10000

/-- `T_START_MIN`, microseconds (spec 00 R5). -/
def Config.startMin : Nat := 12500

/-- `T_START_END`, microseconds, exclusive (spec 00 R5). -/
def Config.startEnd : Nat := 14500

/-- `T_BIT1_MIN`, microseconds (spec 00 R5). -/
def Config.bit1Min : Nat := 1600

/-- `T_BIT_END`, microseconds, exclusive (spec 00 R5). -/
def Config.bitEnd : Nat := 2700

/-- `FRAME_BITS`: bits per frame (spec 00 R5). -/
def Config.frameBits : Nat := 32

/-- `ADDR_BITS`: leading bits discarded (spec 00 R5). -/
def Config.addrBits : Nat := 16

/-- `CMD_LAST`: the last frame bit shifted into `commandBits` (spec 00 R5). -/
def Config.cmdLast : Nat := 24

/-- `HOLD_MS`: the repeat-timeout window in milliseconds (spec 00 R5, spec 43 R145). -/
def Config.holdMs : Nat := 120

/-- `KNOWN_COUNT`: the size of the allow-list (spec 00 R5). -/
def Config.knownCount : Nat := 17

/-- OPEN (spec 00 R6, spec 42 R133, spec 93 U11): which bytes the allow-list holds. An order of all 256 bytes of
which nothing is known but that it is one; the allow-list is its first 17. Every set of 17 bytes comes first in
some order, so a claim that holds whatever this constant is holds for every such set (log 4). -/
opaque Config.knownOrder : Equiv.Perm (BitVec 8)

/-- `KNOWN`, the allow-list of 17 distinct command bytes (spec 10 R37, spec 42 R133; log 4). -/
def Config.known : List Byte :=
  (List.range Config.knownCount).map fun k => Config.knownOrder (BitVec.ofNat 8 k)

/-- OPEN: `MIN_SLEEP`, the lower bound of the background task's sleep (spec 00 R6, spec 93 U3). No rule reads it
and no definition of the model does (log 5). -/
opaque Config.minSleep : Nat

end Sys2Proof
end

