-- ==== Sys2Proof/Machine/State.lean ====
section
/-!
DEFINITION. The state: the nine registers of spec 10 R20 in the spec's two groups and the control bit, and the two
sides of the port (the model's own); the state after reset; the reasons a step can stop.
-/

namespace Sys2Proof.Machine

/-- The assembler's mode (spec 10 R21). Its 1-bit code is `Phase.code` (spec 30 R79). -/
inductive Phase where
  | awaitingStartOrRepeat
  | accumulatingBits
  deriving DecidableEq, Repr

/-- DecoderState, owned by the Frame Assembler (spec 10 R21 to R26). -/
structure DecoderState where
  /-- spec 10 R21 -/
  phase : Phase
  /-- bits consumed since the last decoder reset, 0..32 in 6 bits (spec 10 R20, R22) -/
  bitsReceived : BitVec 6
  /-- spec 10 R23 -/
  commandBits : Byte
  /-- spec 10 R24 -/
  inverseCommandBits : Byte
  deriving DecidableEq, Repr

/-- ButtonTrackerState, owned by the Button Tracker (spec 10 R27 to R30). -/
structure ButtonTrackerState where
  /-- `none` is `Idle`, `some c` is `Holding` with command `c` (spec 10 R27) -/
  activeCommand : Option Byte
  /-- the release deadline, meaningful only while `activeCommand` is `some` (spec 10 R28; log 6) -/
  repeatDeadline : Deadline
  /-- the most recently reported command, `none` before the first press (spec 10 R29) -/
  lastCommand : Option Byte
  /-- the one-shot press latch (spec 10 R30) -/
  hasUnseenPress : Bool
  deriving DecidableEq, Repr

end Sys2Proof.Machine

namespace Sys2Proof.Machine

/-- The whole machine. `connected`, `decoder` and `tracker` are the nine registers of spec 10 R20; `pending` and
`responses` are the two sides of the port (spec 00 R12). -/
structure State where
  /-- set by `CONNECT`, never cleared (spec 10 R31) -/
  connected : Bool
  decoder : DecoderState
  tracker : ButtonTrackerState
  /-- the model's own: the transaction words presented and not yet accepted, next one first (log 1) -/
  pending : List TxnWord
  /-- the model's own: the response words given since reset, oldest first (log 2) -/
  responses : List RspWord
  deriving DecidableEq, Repr

/-- There is no fault: the block has no fatal error, no trap and no stuck state (spec 60 R190). The type is empty, so
no step can answer one. -/
inductive Fault where
  deriving DecidableEq, Repr

/-- Why a step refuses. -/
inductive Refusal where
  /-- Raised by an arm of `exec` whose instruction has no meaning yet (none is left). Safe: nothing can be proved of
  such a step. -/
  | notModelled (mnemonic : String)
  /-- Raised by `PULSE` if the assembler is given a symbol that contradicts its phase, to which spec 41 R120 gives no
  behaviour and asks for a refusal; the classifier never produces one (log 8). Safe: it is never reached, and where it
  stands nothing is claimed. -/
  | symbolContradictsPhase
  deriving DecidableEq, Repr

/-- DecoderState after reset and after a decoder reset (spec 10 R40, R26). -/
def DecoderState.initial : DecoderState :=
  { phase := .awaitingStartOrRepeat, bitsReceived := 0#6, commandBits := 0x00#8, inverseCommandBits := 0x00#8 }

/-- ButtonTrackerState after reset: `Idle`, never pressed (spec 10 R40). -/
def ButtonTrackerState.initial : ButtonTrackerState :=
  { activeCommand := none, repeatDeadline := 0#33, lastCommand := none, hasUnseenPress := false }

/-- The machine right after reset (spec 10 R40, spec 70 R220): every register as the spec says, no word presented and
no response given (log 1, log 2, log 3). -/
def State.reset : State :=
  { connected := false
    decoder := DecoderState.initial
    tracker := ButtonTrackerState.initial
    pending := []
    responses := [] }

end Sys2Proof.Machine
end

