-- ==== Sys2Proof/Machine/Signals.lean ====
section
/-!
DEFINITION. The signals inside the block and the events it emits (spec 00 R9), with the numeric codes of spec 30 R75,
R79, R80, R81. The state holds the types; the codes are for a reader of words (log 17).
-/

namespace Sys2Proof.Machine

/-- The classifier's output (spec 40 R100). -/
inductive Symbol where
  | noSymbol
  | repeatDetected
  | startDetected
  | invalid
  | bit0
  | bit1
  deriving DecidableEq, Repr

/-- What the assembler hands to the tracker (spec 41 R110). -/
inductive FrameResult where
  | incomplete
  | command (c : Byte)
  | decodeFailed
  | aborted
  deriving DecidableEq, Repr

/-- A notification of the block (spec 60 R197). -/
inductive Event where
  | pressed (c : Byte)
  | released (c : Byte)
  deriving DecidableEq, Repr

/-- The sum-type reading of `activeCommand` and `repeatDeadline` (spec 00 R9, spec 43 R140). -/
inductive TrackerMode where
  | idle
  | holding (command : Byte) (deadline : Deadline)
  deriving DecidableEq, Repr

/-- spec 43 R140: in registers, `Idle` is `activeCommand == None`. -/
def ButtonTrackerState.mode (t : ButtonTrackerState) : TrackerMode :=
  match t.activeCommand with
  | none => .idle
  | some c => .holding c t.repeatDeadline

/-- spec 30 R79. -/
def Phase.code : Phase → BitVec 1
  | .awaitingStartOrRepeat => 0#1
  | .accumulatingBits => 1#1

/-- spec 30 R79. -/
def Symbol.code : Symbol → BitVec 3
  | .noSymbol => 0#3
  | .repeatDetected => 1#3
  | .startDetected => 2#3
  | .invalid => 3#3
  | .bit0 => 4#3
  | .bit1 => 5#3

/-- spec 30 R80: `kind[1:0]` in bits 9:8, the byte in bits 7:0. -/
def FrameResult.code : FrameResult → BitVec 10
  | .incomplete => 0x000#10
  | .command c => 1#2 ++ c
  | .decodeFailed => 0x200#10
  | .aborted => 0x300#10

/-- spec 30 R81: bit 8 is the valid bit; `None` is all zeros. -/
def optionByteCode : Option Byte → BitVec 9
  | none => 0x000#9
  | some b => 1#1 ++ b

/-- spec 30 R75: `E[9]` valid, `E[8]` kind (0 pressed, 1 released), `E[7:0]` the command byte. -/
def Event.code : Event → EventWord
  | .pressed c => 0b10#2 ++ c
  | .released c => 0b11#2 ++ c

/-- spec 30 R75: an event slot of a response; no event is the all-zero value. -/
def eventSlot : Option Event → EventWord
  | none => 0x000#10
  | some e => e.code

/-- The event an event slot holds, if its valid bit is set (spec 30 R75). -/
def readEventSlot (e : EventWord) : Option Event :=
  if e.getLsbD 9 then
    if e.getLsbD 8 then some (.released (e.extractLsb' 0 8)) else some (.pressed (e.extractLsb' 0 8))
  else none

end Sys2Proof.Machine
end

