-- ==== Sys2Proof/Machine/Classifier.lean ====
section
/-!
DEFINITION. The Pulse Classifier (spec 40).
-/

namespace Sys2Proof.Machine

/-- spec 40 R101. -/
def classifyAwaiting (x : Nat) : Symbol :=
  if x < Config.repeatMin then .noSymbol
  else if x < Config.startMin then .repeatDetected
  else if x < Config.startEnd then .startDetected
  else .noSymbol

/-- spec 40 R102. -/
def classifyAccumulating (x : Nat) : Symbol :=
  if x < Config.bit1Min then .bit0
  else if x < Config.bitEnd then .bit1
  else .invalid

/-- `classify(phase, interval)` (spec 40 R100). -/
def classify (p : Phase) (x : Nat) : Symbol :=
  match p with
  | .awaitingStartOrRepeat => classifyAwaiting x
  | .accumulatingBits => classifyAccumulating x

end Sys2Proof.Machine
end

