-- ==== Sys2Proof/Machine/Flags.lean ====
section
/-!
DEFINITION. The three one-bit conditions of the block (spec 10 R35) and the one control bit (spec 10 R36). No
arithmetic leaves a flag.
-/

namespace Sys2Proof.Machine

/-- Whether `C` is the command held now (spec 10 R27, spec 44 R167). -/
def ButtonTrackerState.holds (t : ButtonTrackerState) (c : Byte) : Bool :=
  t.activeCommand == some c

/-- The latch cleared, as only `POLL` does (spec 10 R30, spec 44 R165). -/
def ButtonTrackerState.clearUnseen (t : ButtonTrackerState) : ButtonTrackerState :=
  { t with hasUnseenPress := false }

/-- A flag as read data, `zext_9` (spec 30 R76). -/
def flagData (flag : Bool) : ReadData :=
  if flag then 1#9 else 0#9

/-- The control bit set, as only `CONNECT` does (spec 10 R31, spec 44 R162). -/
def State.setConnected (s : State) : State :=
  { s with connected := true }

end Sys2Proof.Machine
end

