-- ==== Sys2Proof/Machine/Ops.lean ====
section
/-!
DEFINITION. The operations every meaning shares: the decoder reset, the accumulator shift, the response word, and
answering a transaction. The block takes no exception that transfers control (spec 60 R190); what it has in that place
is the decoder reset of a failed frame (spec 60 R200) and the ILLEGAL answer (spec 60 R193), both here. There is no
return operation (spec 60 R201).
-/

namespace Sys2Proof.Machine

/-- `DecoderReset()` (spec 10 R26): the effect of both decode failures (spec 60 R200) and of a completed frame. -/
def decoderReset (_ : DecoderState) : DecoderState :=
  { phase := .awaitingStartOrRepeat, bitsReceived := 0#6, commandBits := 0x00#8, inverseCommandBits := 0x00#8 }

/-- `shl8(acc, b) = ((acc << 1) OR b) AND 0xFF` (spec 41 R119): the new bit enters at bit 0, bit 7 is dropped. The
one place where the direction of the shift is fixed (spec 92 D6; log 13). -/
def shl8 (acc : Byte) (b : Bool) : Byte :=
  (acc <<< 1) ||| (BitVec.ofBool b).zeroExtend 8

/-- An `OK` response (spec 30 R74): status 0, two zero bits, read data, the first and the second event emitted. A
transaction emits at most two events (spec 43 R146). -/
def okResponse (rdata : ReadData) (events : List Event) : RspWord :=
  0b000#3 ++ rdata ++ eventSlot events[0]? ++ eventSlot events[1]?

/-- The `ILLEGAL` response (spec 44 R168). -/
def illegalResponse : RspWord := 0x80000000#32

/-- The response word goes out on the port (spec 00 R12; log 2). -/
def State.answer (s : State) (r : RspWord) : State :=
  { s with responses := s.responses ++ [r] }

/-- A transaction ends: `respond OK with rdata and the events emitted, in order` (spec 44 R160). -/
def State.respondOk (s : State) (rdata : ReadData) (events : List Event) : State :=
  s.answer (okResponse rdata events)

/-- An illegal word: no register changes, no event, response ILLEGAL (spec 44 R168, spec 60 R193). -/
def State.respondIllegal (s : State) : State :=
  s.answer illegalResponse

/-- The status of a response: whether it is `ILLEGAL` (spec 30 R74). -/
def responseIllegal (r : RspWord) : Bool :=
  r.getLsbD 31

/-- The read data of a response (spec 30 R74). -/
def responseData (r : RspWord) : ReadData :=
  r.extractLsb' 20 9

/-- The events of a response, first emitted first (spec 30 R74, R75). -/
def responseEvents (r : RspWord) : List Event :=
  (readEventSlot (r.extractLsb' 10 10)).toList ++ (readEventSlot (r.extractLsb' 0 10)).toList

end Sys2Proof.Machine
end

