-- ==== Sys2Proof/Machine/Validator.lean ====
section
/-!
DEFINITION. The Command Validator (spec 42).
-/

namespace Sys2Proof.Machine

/-- `validate(commandBits, inverseCommandBits, KNOWN)`, the four tests in the order of spec 42 R131. The allow-list is
an argument (spec 42 R133). -/
def validate (commandBits inverseCommandBits : Byte) (known : List Byte) : Option Byte :=
  let controlBits := inverseCommandBits ^^^ 0xFF#8
  if commandBits = controlBits then some commandBits
  else if commandBits ∈ known then some commandBits
  else if controlBits ∈ known then some controlBits
  else none

end Sys2Proof.Machine
end

