-- ==== Sys2Proof/Machine/Assembler.lean ====
section
/-!
DEFINITION. The Frame Assembler (spec 41).
-/

namespace Sys2Proof.Machine

/-- What one symbol makes of DecoderState, and what goes to the tracker (spec 41 R110). -/
structure Assembled where
  decoder : DecoderState
  result : FrameResult
  /-- the output `repeat` of spec 41 R110 -/
  repeated : Bool
  deriving DecidableEq, Repr

/-- Frame bit 32 (spec 41 R117): final shift, validate the just-completed values, reset the decoder whatever the
answer. -/
def assembleLastBit (d : DecoderState) (b : Bool) : Assembled :=
  { decoder := decoderReset d
    result :=
      match validate d.commandBits (shl8 d.inverseCommandBits b) Config.known with
      | some c => .command c
      | none => .decodeFailed
    repeated := false }

/-- A bit symbol (spec 41 R114 to R117), by `n = bitsReceived + 1`. The last case is `n = 32` in every reachable state
(log 7). -/
def assembleBit (d : DecoderState) (b : Bool) : Assembled :=
  let n := d.bitsReceived.toNat + 1
  let counted := { d with bitsReceived := BitVec.ofNat 6 n }
  if n ≤ Config.addrBits then
    { decoder := counted, result := .incomplete, repeated := false }
  else if n ≤ Config.cmdLast then
    { decoder := { counted with commandBits := shl8 d.commandBits b }, result := .incomplete, repeated := false }
  else if n < Config.frameBits then
    { decoder := { counted with inverseCommandBits := shl8 d.inverseCommandBits b }
      result := .incomplete
      repeated := false }
  else assembleLastBit d b

/-- `assemble(sym)` (spec 41 R110 to R118); `none` where the symbol contradicts the phase, to which spec 41 R120 gives
no behaviour (log 8). -/
def assemble (d : DecoderState) (sym : Symbol) : Option Assembled :=
  match d.phase, sym with
  | .awaitingStartOrRepeat, .noSymbol => some { decoder := d, result := .incomplete, repeated := false }
  | .awaitingStartOrRepeat, .repeatDetected => some { decoder := d, result := .incomplete, repeated := true }
  | .awaitingStartOrRepeat, .startDetected =>
    some { decoder := { d with phase := .accumulatingBits }, result := .incomplete, repeated := false }
  | .awaitingStartOrRepeat, .bit0 => none
  | .awaitingStartOrRepeat, .bit1 => none
  | .awaitingStartOrRepeat, .invalid => none
  | .accumulatingBits, .bit0 => some (assembleBit d false)
  | .accumulatingBits, .bit1 => some (assembleBit d true)
  | .accumulatingBits, .invalid => some { decoder := decoderReset d, result := .aborted, repeated := false }
  | .accumulatingBits, .noSymbol => none
  | .accumulatingBits, .repeatDetected => none
  | .accumulatingBits, .startDetected => none

end Sys2Proof.Machine
end

