-- ==== Sys2Proof/Machine/Operands.lean ====
section
/-!
DEFINITION. The operands of the transactions (spec 30 R72) and the two exact sums the block computes (spec 00 R10).
-/

namespace Sys2Proof.Machine

/-- The classifier's input, `mark + space` without wrap (spec 30 R72, spec 40 R104). -/
def interval (mark space : Duration) : Nat :=
  mark.toNat + space.toNat

/-- `now + HOLD_MS` in the 33-bit deadline register, which holds it exactly (spec 00 R10, spec 43 R145). -/
def deadlineFrom (now : Time) : Deadline :=
  BitVec.ofNat 33 (now.toNat + Config.holdMs)

/-- `now > repeatDeadline`, on naturals and strict (spec 43 R144, spec 00 R10). -/
def pastDeadline (now : Time) (d : Deadline) : Bool :=
  decide (d.toNat < now.toNat)

end Sys2Proof.Machine
end

