-- ==== Sys2Proof/Machine/Tracker.lean ====
section
/-!
DEFINITION. The Button Tracker (spec 43). Each transition answers the tracker's next state and the events it emits, in
order.
-/

namespace Sys2Proof.Machine

/-- A tracker transition's outcome: the registers after it and the events emitted, first emitted first. -/
structure Tracked where
  tracker : ButtonTrackerState
  events : List Event
  deriving DecidableEq, Repr

/-- The release of whatever is held (spec 43 R141). -/
def releaseHeld (t : ButtonTrackerState) : List Event :=
  match t.activeCommand with
  | some p => [.released p]
  | none => []

/-- A new press (spec 43 R141). -/
def press (t : ButtonTrackerState) (c : Byte) (now : Time) : Tracked :=
  { tracker :=
      { activeCommand := some c
        repeatDeadline := deadlineFrom now
        lastCommand := some c
        hasUnseenPress := true }
    events := releaseHeld t ++ [.pressed c] }

/-- The deadline moved to `now + 120`, nothing else (spec 43 R142, R143). -/
def refresh (t : ButtonTrackerState) (now : Time) : Tracked :=
  { tracker := { t with repeatDeadline := deadlineFrom now }, events := [] }

/-- `onCommand(C, now)` (spec 43 R141, R142). The edge path makes no timeout check (spec 43 R148). -/
def onCommand (t : ButtonTrackerState) (c : Byte) (now : Time) : Tracked :=
  if t.activeCommand = some c then refresh t now else press t c now

/-- `onRepeat(now)` (spec 43 R143): when `Idle` nothing is written at all. -/
def onRepeat (t : ButtonTrackerState) (now : Time) : Tracked :=
  match t.activeCommand with
  | some _ => refresh t now
  | none => { tracker := t, events := [] }

/-- `onTimeout(now)` (spec 43 R144): strict comparison; the deadline register is not written. -/
def onTimeout (t : ButtonTrackerState) (now : Time) : Tracked :=
  match t.activeCommand with
  | some p =>
    if pastDeadline now t.repeatDeadline then
      { tracker := { t with activeCommand := none }, events := [.released p] }
    else { tracker := t, events := [] }
  | none => { tracker := t, events := [] }

/-- The tracker's share of a `PULSE` (spec 44 R163): a decoded command, else a repeat signal, else nothing. -/
def track (t : ButtonTrackerState) (a : Assembled) (now : Time) : Tracked :=
  match a.result with
  | .command c => onCommand t c now
  | .incomplete => if a.repeated then onRepeat t now else { tracker := t, events := [] }
  | .decodeFailed => if a.repeated then onRepeat t now else { tracker := t, events := [] }
  | .aborted => if a.repeated then onRepeat t now else { tracker := t, events := [] }

end Sys2Proof.Machine
end

