-- ==== Sys2Proof/Machine/Port.lean ====
section
/-!
DEFINITION. The meanings of the seven transactions (spec 44), one definition each.
-/

namespace Sys2Proof.Machine

/-- `NOP` (spec 44 R161). -/
def execNop (_now : Time) (s : State) : Host.Outcome State Fault Refusal :=
  .next (s.respondOk 0#9 [])

/-- `CONNECT` (spec 44 R162): idempotent. -/
def execConnect (_now : Time) (s : State) : Host.Outcome State Fault Refusal :=
  .next (s.setConnected.respondOk 0#9 [])

/-- A connected `PULSE` (spec 44 R163): classify with the phase before the assembler acts, assemble, track. -/
def pulseConnected (mark space : Duration) (now : Time) (s : State) : Host.Outcome State Fault Refusal :=
  match assemble s.decoder (classify s.decoder.phase (interval mark space)) with
  | some a =>
    .next (({ s with decoder := a.decoder, tracker := (track s.tracker a now).tracker } : State).respondOk 0#9
      (track s.tracker a now).events)
  | none => .refused .symbolContradictsPhase

/-- `PULSE` (spec 44 R163); while not connected it changes nothing and emits nothing (spec 44 R160). -/
def execPulse (mark space : Duration) (now : Time) (s : State) : Host.Outcome State Fault Refusal :=
  if s.connected then pulseConnected mark space now s else .next (s.respondOk 0#9 [])

/-- `TICK` (spec 44 R164); while not connected it changes nothing and emits nothing (spec 44 R160). -/
def execTick (now : Time) (s : State) : Host.Outcome State Fault Refusal :=
  if s.connected then
    .next (({ s with tracker := (onTimeout s.tracker now).tracker } : State).respondOk 0#9
      (onTimeout s.tracker now).events)
  else .next (s.respondOk 0#9 [])

/-- `POLL` (spec 44 R165): a destructive read of the latch. -/
def execPoll (_now : Time) (s : State) : Host.Outcome State Fault Refusal :=
  .next (({ s with tracker := s.tracker.clearUnseen } : State).respondOk (flagData s.tracker.hasUnseenPress) [])

/-- `CURRENT` (spec 44 R166): a pure read. -/
def execCurrent (_now : Time) (s : State) : Host.Outcome State Fault Refusal :=
  .next (s.respondOk (optionByteCode s.tracker.lastCommand) [])

/-- `ISPRESSED` (spec 44 R167): a pure read. -/
def execIsPressed (code : Byte) (_now : Time) (s : State) : Host.Outcome State Fault Refusal :=
  .next (s.respondOk (flagData (s.tracker.holds code)) [])

end Sys2Proof.Machine
end

