-- ==== Sys2Proof/Machine/Dispatch.lean ====
section
/-!
DEFINITION. The dispatch of a legal transaction (the `case op of` of spec 44 R160).
-/

namespace Sys2Proof.Machine

def exec (i : Instr) (s : State) : Host.Outcome State Fault Refusal :=
  match i with
  | .nop now => Sys2Proof.Machine.execNop now s
  | .connect now => Sys2Proof.Machine.execConnect now s
  | .pulse mark space now => Sys2Proof.Machine.execPulse mark space now s
  | .tick now => Sys2Proof.Machine.execTick now s
  | .poll now => Sys2Proof.Machine.execPoll now s
  | .current now => Sys2Proof.Machine.execCurrent now s
  | .isPressed code now => Sys2Proof.Machine.execIsPressed code now s

end Sys2Proof.Machine
end

