-- ==== Sys2Proof/Machine/Transact.lean ====
section
/-!
DEFINITION. The port: accepting the next transaction word, and what one word does (spec 44 R160).
-/

namespace Sys2Proof.Machine

/-- The environment presents words at the port; they are accepted after those already there (spec 20 R58; log 1). -/
def State.present (s : State) (ws : List TxnWord) : State :=
  { s with pending := s.pending ++ ws }

/-- One transaction word (spec 44 R160): legality first, whatever `connected` is (spec 60 R199), then its operation. -/
def transact (w : TxnWord) (s : State) : Host.Outcome State Fault Refusal :=
  match decode w with
  | .instr i => exec i s
  | .reject _ => .next s.respondIllegal

/-- The next presented word is accepted and processed; with none presented the block waits and keeps all its state
(spec 60 R206, spec 70 R220; log 1). -/
def acceptNext (s : State) : Host.Outcome State Fault Refusal :=
  match s.pending with
  | [] => .next s
  | w :: ws => transact w { s with pending := ws }

/-- A word put where the port accepts its next one (log 3). -/
def presentFirst (s : State) (w : TxnWord) : State :=
  { s with pending := w :: s.pending }

end Sys2Proof.Machine
end

