-- ==== Sys2Proof/Machine/Step.lean ====
section
/-!
DEFINITION. One step of the machine, and the host's way to put an instruction where the next step takes it.
-/

namespace Sys2Proof.Machine

/-- One step: the block accepts and completes the next transaction (spec 20 R55), or waits. -/
def step (s : State) : Host.Outcome State Fault Refusal :=
  acceptNext s

/-- `s` with the table word `w` as the next word the port accepts (log 3, log 10). -/
def State.withFetchWord (s : State) (nbits w : Nat) : State :=
  presentFirst s (tableWord nbits w)

end Sys2Proof.Machine
end

