-- ==== Sys2Proof/Machine/Script.lean ====
section
/-!
DEFINITION. The script notation of spec 30 R83 and the expansions of the pseudo-instructions of spec 30 R84 (log 14).
It writes transactions down; no step of the machine reads it.
-/

namespace Sys2Proof.Machine

/-- `BIT0` or `BIT1` as its pulse (spec 30 R84). -/
def bitPulse (b : Bool) (now : Time) : Instr :=
  if b then .pulse 560#32 1690#32 now else .pulse 560#32 560#32 now

/-- `START` as its pulse (spec 30 R84). -/
def startPulse (now : Time) : Instr := .pulse 9000#32 4500#32 now

/-- `REPEAT` as its pulse (spec 30 R84). -/
def repeatPulse (now : Time) : Instr := .pulse 9000#32 2250#32 now

/-- `BYTE v`: `v[7]` first, `v[0]` last (spec 30 R84). -/
def bytePulses (v : Byte) (now : Time) : List Instr :=
  [bitPulse (v.getLsbD 7) now, bitPulse (v.getLsbD 6) now, bitPulse (v.getLsbD 5) now, bitPulse (v.getLsbD 4) now,
   bitPulse (v.getLsbD 3) now, bitPulse (v.getLsbD 2) now, bitPulse (v.getLsbD 1) now, bitPulse (v.getLsbD 0) now]

/-- `FRAME4 p, q, c, i`: 33 transactions (spec 30 R84). -/
def frame4Pulses (p q c i : Byte) (now : Time) : List Instr :=
  startPulse now :: (bytePulses p now ++ bytePulses q now ++ bytePulses c now ++ bytePulses i now)

/-- The transactions a pseudo-instruction stands for (spec 30 R84). -/
def expandPseudo : Pseudo → List Instr
  | .start now => [startPulse now]
  | .repeatSignal now => [repeatPulse now]
  | .bit0 now => [bitPulse false now]
  | .bit1 now => [bitPulse true now]
  | .gap g now => [.pulse 560#32 g now]
  | .byte v now => bytePulses v now
  | .frame4 p q c i now => frame4Pulses p q c i now
  | .frame p c now => frame4Pulses p (p ^^^ 0xFF#8) c (c ^^^ 0xFF#8) now

/-! The characters of a line (spec 30 R83). -/

/-- The value of a hexadecimal digit; a decimal digit has the same value. -/
def hexDigit (c : Char) : Option Nat :=
  if '0' ≤ c ∧ c ≤ '9' then some (c.toNat - 48)
  else if 'A' ≤ c ∧ c ≤ 'F' then some (c.toNat - 55)
  else if 'a' ≤ c ∧ c ≤ 'f' then some (c.toNat - 87)
  else none

/-- Digits in base `base`, most significant first, continuing from `acc`. -/
def readDigits (base : Nat) : List Char → Nat → Option Nat
  | [], acc => some acc
  | c :: cs, acc =>
    match hexDigit c with
    | some d => if d < base then readDigits base cs (base * acc + d) else none
    | none => none

/-- A decimal or `0x` hexadecimal natural (spec 30 R83). -/
def readNumeral : List Char → Option Nat
  | '0' :: 'x' :: c :: cs => readDigits 16 (c :: cs) 0
  | c :: cs => readDigits 10 (c :: cs) 0
  | [] => none

/-- A line without its comment: everything before the first `;` (spec 30 R83). -/
def dropComment : List Char → List Char
  | [] => []
  | c :: cs => if c = ';' then [] else c :: dropComment cs

/-- Words of a line: runs of characters between spaces, a comma a word of its own. `acc` is the word being read, last
character first. -/
def lineWords : List Char → List Char → List (List Char)
  | [], acc => if acc.isEmpty then [] else [acc.reverse]
  | c :: cs, acc =>
    if c = ' ' ∨ c = '\t' then (if acc.isEmpty then [] else [acc.reverse]) ++ lineWords cs []
    else if c = ',' then (if acc.isEmpty then [] else [acc.reverse]) ++ [','] :: lineWords cs []
    else lineWords cs (c :: acc)

/-- The rest of a line after its mnemonic: operands with commas between them, and at the end `@now` where one is
written (spec 30 R83). `operands` holds those read so far; `expect` says that an operand must come next (after a
comma). -/
def readOperands : List (List Char) → List Nat → Bool → Option (List Nat × Option Nat)
  | [], operands, expect => if expect then none else some (operands, none)
  | [','] :: ws, operands, expect =>
    if expect ∨ operands.isEmpty then none else readOperands ws operands true
  | ('@' :: cs) :: ws, operands, expect =>
    if expect ∨ ¬ ws.isEmpty then none else (readNumeral cs).map fun t => (operands, some t)
  | cs :: ws, operands, expect =>
    if expect ∨ operands.isEmpty then
      match readNumeral cs with
      | some v => readOperands ws (operands ++ [v]) false
      | none => none
    else none

/-- One line of a script; `none` inside the answer is a line with nothing but a comment. -/
def readLine (cs : List Char) : Option (Option ScriptLine) :=
  match lineWords (dropComment cs) [] with
  | [] => some none
  | mnemonic :: ws =>
    (readOperands ws [] false).map fun r => some { mnemonic := mnemonic, operands := r.1, now := r.2 }

/-! From a line to its transactions. -/

/-- A natural as an operand of `width` bits, if it fits (spec 30 R72, R83). -/
def fitsIn (width v : Nat) : Option (BitVec width) :=
  if v < 2 ^ width then some (BitVec.ofNat width v) else none

/-- The stamp of a transaction that does not read it: 0 when omitted (spec 30 R83). -/
def optionalStamp (now : Option Nat) : Option Time :=
  fitsIn 32 (now.getD 0)

/-- The stamp of a transaction that reads it: it must be written (spec 30 R83). -/
def requiredStamp (now : Option Nat) : Option Time :=
  now.bind (fitsIn 32)

/-- A pseudo-instruction's expansion, where it may be written. -/
def expandChecked (p : Pseudo) : Option (List Instr) :=
  if p.wf then some (expandPseudo p) else none

/-- The transactions of a line whose mnemonic takes no operand. -/
def lineWithoutOperands (m : List Char) (now : Option Nat) : Option (List Instr) :=
  if m = ['N', 'O', 'P'] then (optionalStamp now).map fun t => [.nop t]
  else if m = ['C', 'O', 'N', 'N', 'E', 'C', 'T'] then (optionalStamp now).map fun t => [.connect t]
  else if m = ['T', 'I', 'C', 'K'] then (requiredStamp now).map fun t => [.tick t]
  else if m = ['P', 'O', 'L', 'L'] then (optionalStamp now).map fun t => [.poll t]
  else if m = ['C', 'U', 'R', 'R', 'E', 'N', 'T'] then (optionalStamp now).map fun t => [.current t]
  else if m = ['S', 'T', 'A', 'R', 'T'] then (requiredStamp now).bind fun t => expandChecked (.start t)
  else if m = ['R', 'E', 'P', 'E', 'A', 'T'] then (requiredStamp now).bind fun t => expandChecked (.repeatSignal t)
  else if m = ['B', 'I', 'T', '0'] then (requiredStamp now).bind fun t => expandChecked (.bit0 t)
  else if m = ['B', 'I', 'T', '1'] then (requiredStamp now).bind fun t => expandChecked (.bit1 t)
  else none

/-- The transactions of a line whose mnemonic takes one operand. -/
def lineWithOne (m : List Char) (x : Nat) (now : Option Nat) : Option (List Instr) :=
  if m = ['I', 'S', 'P', 'R', 'E', 'S', 'S', 'E', 'D'] then
    (fitsIn 8 x).bind fun code => (optionalStamp now).map fun t => [.isPressed code t]
  else if m = ['G', 'A', 'P'] then
    (fitsIn 32 x).bind fun g => (requiredStamp now).bind fun t => expandChecked (.gap g t)
  else if m = ['B', 'Y', 'T', 'E'] then
    (fitsIn 8 x).bind fun v => (requiredStamp now).bind fun t => expandChecked (.byte v t)
  else none

/-- The transactions of a line whose mnemonic takes two operands. -/
def lineWithTwo (m : List Char) (x y : Nat) (now : Option Nat) : Option (List Instr) :=
  if m = ['P', 'U', 'L', 'S', 'E'] then
    (fitsIn 32 x).bind fun mark => (fitsIn 32 y).bind fun space =>
      (requiredStamp now).map fun t => [.pulse mark space t]
  else if m = ['F', 'R', 'A', 'M', 'E'] then
    (fitsIn 8 x).bind fun p => (fitsIn 8 y).bind fun c =>
      (requiredStamp now).bind fun t => expandChecked (.frame p c t)
  else none

/-- The transactions a line stands for; `none` where the notation does not allow it (spec 30 R83, R84). -/
def lineTransactions (l : ScriptLine) : Option (List Instr) :=
  match l.operands with
  | [] => lineWithoutOperands l.mnemonic l.now
  | [x] => lineWithOne l.mnemonic x l.now
  | [x, y] => lineWithTwo l.mnemonic x y l.now
  | [p, q, c, i] =>
    if l.mnemonic = ['F', 'R', 'A', 'M', 'E', '4'] then
      (fitsIn 8 p).bind fun p => (fitsIn 8 q).bind fun q => (fitsIn 8 c).bind fun c => (fitsIn 8 i).bind fun i =>
        (requiredStamp l.now).bind fun t => expandChecked (.frame4 p q c i t)
    else none
  | _ => none

/-- A script, one list of characters per line, as the transactions presented to the port top to bottom. -/
def scriptTransactions : List (List Char) → Option (List Instr)
  | [] => some []
  | cs :: rest =>
    match readLine cs, scriptTransactions rest with
    | some none, some is => some is
    | some (some l), some is => (lineTransactions l).map fun js => js ++ is
    | _, _ => none

end Sys2Proof.Machine
end

