-- ==== Sys2Proof/Safety.lean ====
section
/-!
DEFINITION. The words the statements are made of: runs, what an observer sees of them, the invariants of spec 10 R25
and R32 and of spec 43 R147, the environment's clock premise, and response words written out from spec 30 R74, R75.
-/

namespace Sys2Proof.Machine

/-! Transactions and runs. -/

/-- Whether a transaction is a `PULSE`, the only writer of DecoderState (spec 10 R41). -/
def isPulse : Instr → Bool
  | .pulse _ _ _ => true
  | .nop _ => false
  | .connect _ => false
  | .tick _ => false
  | .poll _ => false
  | .current _ => false
  | .isPressed _ _ => false

/-- `legal(op, a, b)` of spec 44 R160 on the bits of a word. -/
def legalWord (w : TxnWord) : Bool :=
  TxnFields.legal
    { op := w.extractLsb' 96 4, now := w.extractLsb' 64 32, a := w.extractLsb' 32 32, b := w.extractLsb' 0 32 }

/-- Transactions one after another, each on the state the one before left (spec 20 R58). -/
def runAll : List Instr → State → Host.Outcome State Fault Refusal
  | [], s => .next s
  | i :: is, s =>
    match exec i s with
    | .next t => runAll is t
    | .fault r => .fault r
    | .refused r => .refused r

/-- Words one after another, legal or not (spec 20 R58, spec 44 R160). -/
def runWords : List TxnWord → State → Host.Outcome State Fault Refusal
  | [], s => .next s
  | w :: ws, s =>
    match transact w s with
    | .next t => runWords ws t
    | .fault r => .fault r
    | .refused r => .refused r

/-! What an observer sees (spec 00 R12). -/

/-- The events of a list of responses, in the order emitted (spec 30 R74). -/
def eventsOf (rs : List RspWord) : List Event :=
  rs.flatMap responseEvents

/-- The response with read data 0 and no event. -/
def quietRsp : RspWord := 0x00000000#32

/-- `ev0 = Pressed(c)`, nothing else (spec 30 R74, R75). -/
def pressedRsp (c : Byte) : RspWord := 0x000#12 ++ 0b10#2 ++ c ++ 0x000#10

/-- `ev0 = Released(p)`, nothing else (spec 30 R74, R75). -/
def releasedRsp (p : Byte) : RspWord := 0x000#12 ++ 0b11#2 ++ p ++ 0x000#10

/-- `ev0 = Released(p)`, `ev1 = Pressed(c)` (spec 30 R74, R75). -/
def releasedPressedRsp (p c : Byte) : RspWord := 0x000#12 ++ 0b11#2 ++ p ++ 0b10#2 ++ c

/-- The command held after a list of events, from one held before it; `none` if an event does not fit: a `Pressed`
while something is held, or a `Released` of anything but the held command (spec 43 R147 (a)). -/
def heldAfter : Option Byte → List Event → Option (Option Byte)
  | h, [] => some h
  | none, .pressed c :: es => heldAfter (some c) es
  | none, .released _ :: _ => none
  | some _, .pressed _ :: _ => none
  | some p, .released c :: es => if p = c then heldAfter none es else none

/-! Invariants. -/

/-- DecoderState between transactions (spec 10 R25, R22): all zero while awaiting a start; while accumulating, at most
31 bits, and each accumulator below the power of two of the bits shifted into it. -/
def DecoderInv (d : DecoderState) : Prop :=
  (d.phase = .awaitingStartOrRepeat →
    d.bitsReceived = 0#6 ∧ d.commandBits = 0#8 ∧ d.inverseCommandBits = 0#8) ∧
  (d.phase = .accumulatingBits →
    d.bitsReceived.toNat ≤ 31 ∧
    d.commandBits.toNat < 2 ^ (min d.bitsReceived.toNat 24 - 16) ∧
    d.inverseCommandBits.toNat < 2 ^ (d.bitsReceived.toNat - 24))

/-- ButtonTrackerState between transactions (spec 10 R32 (a), (b), (c)). -/
def TrackerInv (s : State) : Prop :=
  (∀ c, s.tracker.activeCommand = some c → s.tracker.lastCommand = some c) ∧
  (s.tracker.lastCommand = none → s.tracker.activeCommand = none ∧ s.tracker.hasUnseenPress = false) ∧
  (s.connected = false → s.decoder = State.reset.decoder ∧ s.tracker = State.reset.tracker)

/-- The events so far alternate, press and release of the same command, and leave held what `activeCommand` says
(spec 43 R147 (a)). -/
def EventsInv (s : State) : Prop :=
  heldAfter none (eventsOf s.responses) = some s.tracker.activeCommand

/-! The environment. -/

/-- The environment's duty E3 (spec 70 R223, spec 20 R63): the clock values of successive `PULSE`s and `TICK`s do not
decrease, and the first is at least `t`. -/
def ClockFrom : Nat → List Instr → Prop
  | _, [] => True
  | t, .pulse _ _ now :: is => t ≤ now.toNat ∧ ClockFrom now.toNat is
  | t, .tick now :: is => t ≤ now.toNat ∧ ClockFrom now.toNat is
  | t, .nop _ :: is => ClockFrom t is
  | t, .connect _ :: is => ClockFrom t is
  | t, .poll _ :: is => ClockFrom t is
  | t, .current _ :: is => ClockFrom t is
  | t, .isPressed _ _ :: is => ClockFrom t is

/-! Frames (spec 30 R82). -/

/-- A pulse as the environment measures it: mark, space, and the clock at its end. -/
structure RawPulse where
  mark : Duration
  space : Duration
  now : Time
  deriving DecidableEq, Repr

/-- The duration the classifier sees (spec 40 R104). -/
def RawPulse.length (p : RawPulse) : Nat := p.mark.toNat + p.space.toNat

/-- The bit a bit-length pulse stands for (spec 40 R102). -/
def RawPulse.bit (p : RawPulse) : Bool := decide (1600 ≤ p.length)

/-- The transaction that presents the pulse. -/
def RawPulse.txn (p : RawPulse) : Instr := .pulse p.mark p.space p.now

/-- The byte whose bits are these, the first one uppermost (spec 20 R51). -/
def byteOfBits (bs : List Bool) : Byte :=
  BitVec.ofNat 8 (bs.foldl (fun acc b => 2 * acc + b.toNat) 0)

end Sys2Proof.Machine
end

