-- ==== Sys2Proof/Certificates/Slice0/Obligations.lean ====
section
/-!
DEFINITION. The statements for the provers. Each docstring says which rule of spec/ it formalises. Next states and
responses are written out as the rules give them, not through the operations the meanings use. Throughout, `pending`
and `responses` are the model's own fields: the words presented at the port and the response words given (log 1, log 2).
-/

open Sys2Proof Sys2Proof.Machine

/-! ## Encoding -/

/-- Spec 30 R70 to R72: reading back a transaction's word gives the transaction, with every operand and the stamp at
every value. That the stamp is part of every transaction is the model's choice (log 9). -/
def Obligations.DecodeOfEncodeIsSame : Prop :=
  ∀ i : Instr, decode (encode i) = .instr i

/-- Spec 30 R70 to R73: a word that is a transaction is that transaction's only word, so no bit of a legal word is
dropped. That the stamp is part of every transaction is the model's choice (log 9). -/
def Obligations.EncodeOfDecodeIsSame : Prop :=
  ∀ (w : TxnWord) (i : Instr), decode w = .instr i → encode i = w

/-- The predicate `legal(op, a, b)` of spec 44 R160, on the bits of the word, is exactly what the decoder accepts. -/
def Obligations.DecoderAcceptsExactlyLegalWords : Prop :=
  ∀ w : TxnWord, (∃ i, decode w = .instr i) ↔
    let op := w.toNat / 2 ^ 96
    let a := w.toNat / 2 ^ 32 % 2 ^ 32
    let b := w.toNat % 2 ^ 32
    (op = 0 ∨ op = 1 ∨ op = 3 ∨ op = 4 ∨ op = 5) ∧ a = 0 ∧ b = 0 ∨ op = 2 ∨ op = 6 ∧ a = 0 ∧ b / 2 ^ 8 = 0

/-- One word of each operation, and two illegal ones, as spec 44 R161 to R168 give them in their examples. -/
def Obligations.DecodesTheExampleWords : Prop :=
  decode 0x0000000000000000000000000#100 = .instr (.nop 0#32) ∧
  decode 0x1000000000000000000000000#100 = .instr (.connect 0#32) ∧
  decode 0x2000003E80000232800001194#100 = .instr (.pulse 9000#32 4500#32 1000#32) ∧
  decode 0x3000006550000000000000000#100 = .instr (.tick 1621#32) ∧
  decode 0x4000000000000000000000000#100 = .instr (.poll 0#32) ∧
  decode 0x5000000000000000000000000#100 = .instr (.current 0#32) ∧
  decode 0x6000000000000000000000062#100 = .instr (.isPressed 0x62#8 0#32) ∧
  (∀ i, decode 0x7000000000000000000000000#100 ≠ .instr i) ∧
  (∀ i, decode 0x6000000000000000000000162#100 ≠ .instr i)

/-- Spec 30 R73: the must-be-zero fields make a word illegal, whatever its stamp; the stamp never does, and an
operation that does not read it does the same whatever it holds. -/
def Obligations.OnlyTheStampMayBeAnything : Prop :=
  (∀ (op : BitVec 4) (now : Time) (a b : BitVec 32) (s : State),
    (op ∈ [0#4, 1#4, 3#4, 4#4, 5#4] ∧ (a ≠ 0#32 ∨ b ≠ 0#32) ∨ op = 6#4 ∧ (a ≠ 0#32 ∨ b.extractLsb' 8 24 ≠ 0#24)) →
    transact (op ++ now ++ a ++ b) s = .next { s with responses := s.responses ++ [0x80000000#32] }) ∧
  (∀ (op : BitVec 4) (now now' : Time) (a b : BitVec 32),
    legalWord (op ++ now ++ a ++ b) = legalWord (op ++ now' ++ a ++ b)) ∧
  (∀ (op : BitVec 4) (now now' : Time) (a b : BitVec 32) (s : State), op ≠ 2#4 → op ≠ 3#4 →
    transact (op ++ now ++ a ++ b) s = transact (op ++ now' ++ a ++ b) s)

/-- Spec 30 R75: the ten bits of an event. -/
def Obligations.EventWordsAreAsTheSpecNumbersThem : Prop :=
  (∀ c : Byte, (eventSlot (some (.pressed c))).toNat = 0x200 + c.toNat) ∧
  (∀ c : Byte, (eventSlot (some (.released c))).toNat = 0x300 + c.toNat) ∧
  eventSlot none = 0x000#10

/-- Spec 30 R79, R81: the numeric codes of phases, symbols and optional bytes (and, of R80, those of frame results). -/
def Obligations.InternalCodesAreAsTheSpecNumbersThem : Prop :=
  Phase.awaitingStartOrRepeat.code = 0#1 ∧ Phase.accumulatingBits.code = 1#1 ∧
  [Symbol.noSymbol, .repeatDetected, .startDetected, .invalid, .bit0, .bit1].map (fun y => y.code.toNat)
    = [0, 1, 2, 3, 4, 5] ∧
  (∀ y : Symbol, y.code ≠ 6#3 ∧ y.code ≠ 7#3) ∧
  (Symbol.bit0.code.getLsbD 2 = true ∧ Symbol.bit0.code.getLsbD 0 = false) ∧
  (Symbol.bit1.code.getLsbD 2 = true ∧ Symbol.bit1.code.getLsbD 0 = true) ∧
  optionByteCode none = 0x000#9 ∧
  (∀ b : Byte, (optionByteCode (some b)).toNat = 0x100 + b.toNat) ∧
  (∀ c : Byte, (FrameResult.command c).code.toNat = 0x100 + c.toNat) ∧
  FrameResult.incomplete.code = 0x000#10 ∧ FrameResult.decodeFailed.code = 0x200#10 ∧
  FrameResult.aborted.code = 0x300#10

/-! ## The port -/

/-- Spec 44 R160: a legal word at the port is processed as the transaction it decodes to; the word is taken from the
list of presented words, which is the model's own (log 1). -/
def Obligations.StepRunsTheDecodedTransaction : Prop :=
  ∀ (s : State) (w : TxnWord) (ws : List TxnWord) (i : Instr), s.pending = w :: ws → decode w = .instr i →
    step s = exec i { s with pending := ws }

/-- Spec 60 R206, spec 70 R220: with no transaction presented the block waits and keeps everything. That this is a
step of the machine is the model's choice (log 1). -/
def Obligations.StepWaitsWithoutATransaction : Prop :=
  ∀ s : State, s.pending = [] → step s = .next s

/-- Spec 44 R168, spec 60 R193: an illegal word changes no register, emits no event and is answered 0x80000000,
connected or not; the next word is then at the port; and no legal word is answered with `status = ILLEGAL`. -/
def Obligations.IllegalWordIsAnsweredAndForgotten : Prop :=
  ∀ (s : State) (w : TxnWord) (ws : List TxnWord), s.pending = w :: ws →
    (legalWord w = false →
      step s = .next { s with pending := ws, responses := s.responses ++ [0x80000000#32] }) ∧
    (legalWord w = true →
      ∃ t r, step s = .next t ∧ t.responses = s.responses ++ [r] ∧ r.getLsbD 31 = false)

/-- Spec 60 R190: every operation returns; no state is stuck on any word, and no transaction faults
or is refused. -/
def Obligations.EveryTransactionCompletes : Prop :=
  (∀ (i : Instr) (s : State), ∃ t, exec i s = .next t) ∧ (∀ (w : TxnWord) (s : State), ∃ t, transact w s = .next t)

/-- Spec 30 R74: the layout of a response, and that every transaction word gives exactly one: two zero bits, a first
event wherever there is a second, and nothing but the status in an ILLEGAL one. -/
def Obligations.EveryTransactionGivesOneResponse : Prop :=
  (∀ (rdata : ReadData) (evs : List Event),
    (okResponse rdata evs).toNat =
      rdata.toNat * 2 ^ 20 + (eventSlot evs[0]?).toNat * 2 ^ 10 + (eventSlot evs[1]?).toNat) ∧
  (∀ (w : TxnWord) (s : State), ∃ t r, transact w s = .next t ∧ t.responses = s.responses ++ [r] ∧
    r.extractLsb' 29 2 = 0#2 ∧
    (r.getLsbD 9 = true → r.getLsbD 19 = true) ∧
    (r.getLsbD 19 = false → r.extractLsb' 10 10 = 0#10) ∧
    (r.getLsbD 9 = false → r.extractLsb' 0 10 = 0#10) ∧
    (r.getLsbD 31 = true → r = 0x80000000#32))

/-- Spec 20 R58: the words presented are processed one after another in the order presented, each on the state the one
before left, whatever they are, and nothing else happens. That one step takes one word off a list is the model's choice
(log 1). -/
def Obligations.PortProcessesWordsInOrder : Prop :=
  ∀ (ws rest : List TxnWord) (s : State),
    Sys2Proof.core.run ws.length { s with pending := ws ++ rest } = runWords ws { s with pending := rest }

/-! ## Reset -/

/-- Spec 10 R40: the nine registers after reset. -/
def Obligations.ResetLeavesTheSpecValues : Prop :=
  State.reset.connected = false ∧
  State.reset.decoder.phase = .awaitingStartOrRepeat ∧
  State.reset.decoder.bitsReceived = 0#6 ∧
  State.reset.decoder.commandBits = 0x00#8 ∧
  State.reset.decoder.inverseCommandBits = 0x00#8 ∧
  State.reset.tracker.activeCommand = none ∧
  State.reset.tracker.repeatDeadline = 0#33 ∧
  State.reset.tracker.lastCommand = none ∧
  State.reset.tracker.hasUnseenPress = false

/-! ## What each transaction does -/

/-- Spec 44 R161: the word of `NOP`; it is answered 0x00000000 and changes nothing; the all-zero word is one. -/
def Obligations.NopChangesNothing : Prop :=
  (∀ now : Time, decode (0x0#4 ++ now ++ 0#32 ++ 0#32) = .instr (.nop now)) ∧
  decode 0#100 = .instr (.nop 0#32) ∧
  ∀ (now : Time) (s : State), exec (.nop now) s = .next { s with responses := s.responses ++ [0x00000000#32] }

/-- Spec 44 R162, spec 60 R194: the word of `CONNECT`; it sets `connected` and nothing else, whether or not it was set, and no
transaction clears it. -/
def Obligations.ConnectSetsConnectedForGood : Prop :=
  (∀ now : Time, decode (0x1#4 ++ now ++ 0#32 ++ 0#32) = .instr (.connect now)) ∧
  (∀ (now : Time) (s : State), exec (.connect now) s =
    .next { s with connected := true, responses := s.responses ++ [0x00000000#32] }) ∧
  (∀ (i : Instr) (s t : State), s.connected = true → exec i s = .next t → t.connected = true)

/-- Spec 44 R165: the word of `POLL`; it answers the latch as it was and clears it. -/
def Obligations.PollReturnsAndClearsTheLatch : Prop :=
  (∀ now : Time, decode (0x4#4 ++ now ++ 0#32 ++ 0#32) = .instr (.poll now)) ∧
  ∀ (now : Time) (s : State), exec (.poll now) s =
    .next { s with
      tracker := { s.tracker with hasUnseenPress := false }
      responses := s.responses ++ [if s.tracker.hasUnseenPress then 0x00100000#32 else 0x00000000#32] }

/-- Spec 44 R166: the word of `CURRENT`; it answers the last command with its valid bit, or 0 before any press, and
changes nothing. -/
def Obligations.CurrentReturnsTheLastCommand : Prop :=
  (∀ now : Time, decode (0x5#4 ++ now ++ 0#32 ++ 0#32) = .instr (.current now)) ∧
  ∀ (now : Time) (s : State), exec (.current now) s =
    .next { s with
      responses := s.responses ++
        [match s.tracker.lastCommand with
          | some c => 0b0001#4 ++ c ++ 0x00000#20
          | none => 0x00000000#32] }

/-- Spec 44 R167: the word of `ISPRESSED`; it answers whether the code is the command held now, whatever the deadline, and changes
nothing. -/
def Obligations.IsPressedComparesTheActiveCommand : Prop :=
  (∀ (code : Byte) (now : Time),
    decode (0x6#4 ++ now ++ 0#32 ++ (0#24 ++ code)) = .instr (.isPressed code now)) ∧
  ∀ (code : Byte) (now : Time) (s : State),
    (s.tracker.activeCommand = some code →
      exec (.isPressed code now) s = .next { s with responses := s.responses ++ [0x00100000#32] }) ∧
    (s.tracker.activeCommand ≠ some code →
      exec (.isPressed code now) s = .next { s with responses := s.responses ++ [0x00000000#32] })

/-- Spec 44 R160: while not connected, `PULSE` and `TICK` change nothing and are answered 0x00000000. -/
def Obligations.DisconnectedPulseAndTickDoNothing : Prop :=
  ∀ (mark space : Duration) (now : Time) (s : State), s.connected = false →
    exec (.pulse mark space now) s = .next { s with responses := s.responses ++ [0x00000000#32] } ∧
    exec (.tick now) s = .next { s with responses := s.responses ++ [0x00000000#32] }

/-- Spec 43 R144, spec 44 R164: the word of `TICK`; it releases the held command exactly when `now > repeatDeadline`, strictly; then
only `activeCommand` is written. In every other case nothing is. -/
def Obligations.TickReleasesOnlyPastTheDeadline : Prop :=
  (∀ now : Time, decode (0x3#4 ++ now ++ 0#32 ++ 0#32) = .instr (.tick now)) ∧
  ∀ (now : Time) (s : State),
    (∀ p, s.connected = true → s.tracker.activeCommand = some p → s.tracker.repeatDeadline.toNat < now.toNat →
      exec (.tick now) s =
        .next { s with
          tracker := { s.tracker with activeCommand := none }
          responses := s.responses ++ [releasedRsp p] }) ∧
    (s.connected = false ∨ s.tracker.activeCommand = none ∨ now.toNat ≤ s.tracker.repeatDeadline.toNat →
      exec (.tick now) s = .next { s with responses := s.responses ++ [quietRsp] })

/-- Spec 41 R111 with spec 40 R101: while awaiting a start, a pulse shorter than 10000 µs or of 14500 µs and longer
changes no register. -/
def Obligations.NoiseWhileAwaitingChangesNothing : Prop :=
  ∀ (mark space : Duration) (now : Time) (s : State),
    s.connected = true → s.decoder.phase = .awaitingStartOrRepeat →
    (mark.toNat + space.toNat < 10000 ∨ 14500 ≤ mark.toNat + space.toNat) →
    exec (.pulse mark space now) s = .next { s with responses := s.responses ++ [quietRsp] }

/-- Spec 43 R143 with spec 40 R101: a repeat-length pulse while awaiting a start moves the deadline of whatever is
held, past or not (spec 43 R148), and writes nothing when `Idle`; it emits no event. -/
def Obligations.RepeatSignalRefreshesOnlyWhileHolding : Prop :=
  ∀ (mark space : Duration) (now : Time) (s : State),
    s.connected = true → s.decoder.phase = .awaitingStartOrRepeat →
    10000 ≤ mark.toNat + space.toNat → mark.toNat + space.toNat < 12500 →
    (s.tracker.activeCommand ≠ none →
      exec (.pulse mark space now) s =
        .next { s with
          tracker := { s.tracker with repeatDeadline := BitVec.ofNat 33 (now.toNat + 120) }
          responses := s.responses ++ [quietRsp] }) ∧
    (s.tracker.activeCommand = none →
      exec (.pulse mark space now) s = .next { s with responses := s.responses ++ [quietRsp] })

/-- Spec 41 R113 with spec 40 R101: a start-length pulse while awaiting a start writes `phase` and nothing else. -/
def Obligations.StartPulseOpensAFrame : Prop :=
  ∀ (mark space : Duration) (now : Time) (s : State),
    s.connected = true → s.decoder.phase = .awaitingStartOrRepeat →
    12500 ≤ mark.toNat + space.toNat → mark.toNat + space.toNat < 14500 →
    exec (.pulse mark space now) s =
      .next { s with
        decoder := { s.decoder with phase := .accumulatingBits }
        responses := s.responses ++ [quietRsp] }

/-- Spec 41 R114: frame bits 1 to 16 are counted and dropped. -/
def Obligations.AddressBitsAreCountedAndDropped : Prop :=
  ∀ (mark space : Duration) (now : Time) (s : State),
    s.connected = true → s.decoder.phase = .accumulatingBits → mark.toNat + space.toNat < 2700 →
    s.decoder.bitsReceived.toNat + 1 ≤ 16 →
    exec (.pulse mark space now) s =
      .next { s with
        decoder := { s.decoder with bitsReceived := BitVec.ofNat 6 (s.decoder.bitsReceived.toNat + 1) }
        responses := s.responses ++ [quietRsp] }

/-- Spec 41 R115, R119: frame bits 17 to 24 are shifted into `commandBits`, the bit being 1 from 1600 µs on. -/
def Obligations.CommandBitsAreShiftedIn : Prop :=
  ∀ (mark space : Duration) (now : Time) (s : State),
    s.connected = true → s.decoder.phase = .accumulatingBits → mark.toNat + space.toNat < 2700 →
    17 ≤ s.decoder.bitsReceived.toNat + 1 → s.decoder.bitsReceived.toNat + 1 ≤ 24 →
    exec (.pulse mark space now) s =
      .next { s with
        decoder := { s.decoder with
          bitsReceived := BitVec.ofNat 6 (s.decoder.bitsReceived.toNat + 1)
          commandBits :=
            BitVec.ofNat 8 (2 * s.decoder.commandBits.toNat + if mark.toNat + space.toNat < 1600 then 0 else 1) }
        responses := s.responses ++ [quietRsp] }

/-- Spec 41 R116, R119: frame bits 25 to 31 are shifted into `inverseCommandBits`. -/
def Obligations.InverseBitsAreShiftedIn : Prop :=
  ∀ (mark space : Duration) (now : Time) (s : State),
    s.connected = true → s.decoder.phase = .accumulatingBits → mark.toNat + space.toNat < 2700 →
    25 ≤ s.decoder.bitsReceived.toNat + 1 → s.decoder.bitsReceived.toNat + 1 ≤ 31 →
    exec (.pulse mark space now) s =
      .next { s with
        decoder := { s.decoder with
          bitsReceived := BitVec.ofNat 6 (s.decoder.bitsReceived.toNat + 1)
          inverseCommandBits :=
            BitVec.ofNat 8
              (2 * s.decoder.inverseCommandBits.toNat + if mark.toNat + space.toNat < 1600 then 0 else 1) }
        responses := s.responses ++ [quietRsp] }

/-- Spec 41 R117 with spec 43 R141, R142: frame bit 32 completes the inverse byte, validates, resets the decoder
whatever the answer, and presses, displaces, refreshes or does nothing, past the deadline or not (spec 43 R148). -/
def Obligations.LastBitValidatesResetsAndPresses : Prop :=
  ∀ (mark space : Duration) (now : Time) (s : State),
    s.connected = true → s.decoder.phase = .accumulatingBits → mark.toNat + space.toNat < 2700 →
    s.decoder.bitsReceived = 31#6 →
    let bit := if mark.toNat + space.toNat < 1600 then 0 else 1
    let answer := validate s.decoder.commandBits (BitVec.ofNat 8 (2 * s.decoder.inverseCommandBits.toNat + bit))
      Config.known
    let freshDecoder : DecoderState :=
      { phase := .awaitingStartOrRepeat, bitsReceived := 0#6, commandBits := 0x00#8, inverseCommandBits := 0x00#8 }
    let deadline := BitVec.ofNat 33 (now.toNat + 120)
    (answer = none →
      exec (.pulse mark space now) s =
        .next { s with decoder := freshDecoder, responses := s.responses ++ [quietRsp] }) ∧
    (∀ c, answer = some c → s.tracker.activeCommand = some c →
      exec (.pulse mark space now) s =
        .next { s with
          decoder := freshDecoder
          tracker := { s.tracker with repeatDeadline := deadline }
          responses := s.responses ++ [quietRsp] }) ∧
    (∀ c, answer = some c → s.tracker.activeCommand = none →
      exec (.pulse mark space now) s =
        .next { s with
          decoder := freshDecoder
          tracker :=
            { activeCommand := some c, repeatDeadline := deadline, lastCommand := some c, hasUnseenPress := true }
          responses := s.responses ++ [pressedRsp c] }) ∧
    (∀ c p, answer = some c → s.tracker.activeCommand = some p → p ≠ c →
      exec (.pulse mark space now) s =
        .next { s with
          decoder := freshDecoder
          tracker :=
            { activeCommand := some c, repeatDeadline := deadline, lastCommand := some c, hasUnseenPress := true }
          responses := s.responses ++ [releasedPressedRsp p c] })

/-- Spec 60 R200 (with R191, R192, spec 41 R118): on either decode failure only DecoderState changes, to its reset
values, and nothing is emitted. The failures are a pulse of 2700 µs or more in mid-frame, at any bit count, a start or
repeat signal too; and a 32nd bit after which the command byte and the complemented inverse byte differ and are both
outside the allow-list. A held button is neither released nor refreshed. -/
def Obligations.DecodeFailuresTouchOnlyTheDecoder : Prop :=
  ∀ (mark space : Duration) (now : Time) (s : State),
    s.connected = true → s.decoder.phase = .accumulatingBits →
    let freshDecoder : DecoderState :=
      { phase := .awaitingStartOrRepeat, bitsReceived := 0#6, commandBits := 0x00#8, inverseCommandBits := 0x00#8 }
    let bit := if mark.toNat + space.toNat < 1600 then 0 else 1
    let controlBits := ~~~ (BitVec.ofNat 8 (2 * s.decoder.inverseCommandBits.toNat + bit))
    (2700 ≤ mark.toNat + space.toNat →
      exec (.pulse mark space now) s =
        .next { s with decoder := freshDecoder, responses := s.responses ++ [quietRsp] }) ∧
    (mark.toNat + space.toNat < 2700 → s.decoder.bitsReceived = 31#6 →
      s.decoder.commandBits ≠ controlBits → s.decoder.commandBits ∉ Config.known → controlBits ∉ Config.known →
      exec (.pulse mark space now) s =
        .next { s with decoder := freshDecoder, responses := s.responses ++ [quietRsp] })

/-- Spec 40 R104: a `PULSE` does the same for every mark and space of the same exact sum; 100 + 13400 µs is a start. -/
def Obligations.PulseSeesOnlyTheSum : Prop :=
  (∀ mark space : Duration, interval mark space = mark.toNat + space.toNat) ∧
  (∀ (mark space mark' space' : Duration) (now : Time) (s : State),
    mark.toNat + space.toNat = mark'.toNat + space'.toNat →
    exec (.pulse mark space now) s = exec (.pulse mark' space' now) s) ∧
  classify .awaitingStartOrRepeat (interval 100#32 13400#32) = .startDetected

/-! ## The components -/

/-- Spec 40 R101 to R103: the windows of both phases, closed below and open above, for every interval. -/
def Obligations.ClassifierWindowsAreClosedOpen : Prop :=
  (∀ x : Nat,
    (classify .awaitingStartOrRepeat x = .noSymbol ↔ x < 10000 ∨ 14500 ≤ x) ∧
    (classify .awaitingStartOrRepeat x = .repeatDetected ↔ 10000 ≤ x ∧ x < 12500) ∧
    (classify .awaitingStartOrRepeat x = .startDetected ↔ 12500 ≤ x ∧ x < 14500)) ∧
  (∀ x : Nat,
    (classify .accumulatingBits x = .bit0 ↔ x < 1600) ∧
    (classify .accumulatingBits x = .bit1 ↔ 1600 ≤ x ∧ x < 2700) ∧
    (classify .accumulatingBits x = .invalid ↔ 2700 ≤ x))

/-- Spec 41 R111 to R118: the assembler's answer to each symbol of its phase, and for the bit symbols by the number
`n` of the bit they bring. -/
def Obligations.AssemblerDoesOneCasePerSymbol : Prop :=
  ∀ d : DecoderState,
    (d.phase = .awaitingStartOrRepeat →
      assemble d .noSymbol = some { decoder := d, result := .incomplete, repeated := false } ∧
      assemble d .repeatDetected = some { decoder := d, result := .incomplete, repeated := true } ∧
      assemble d .startDetected =
        some { decoder := { d with phase := .accumulatingBits }, result := .incomplete, repeated := false }) ∧
    (d.phase = .accumulatingBits →
      let freshDecoder : DecoderState :=
        { phase := .awaitingStartOrRepeat, bitsReceived := 0#6, commandBits := 0x00#8, inverseCommandBits := 0x00#8 }
      assemble d .invalid = some { decoder := freshDecoder, result := .aborted, repeated := false } ∧
      ∀ b : Bool,
        let bitSymbol := if b then Symbol.bit1 else Symbol.bit0
        let n := d.bitsReceived.toNat + 1
        (n ≤ 16 → assemble d bitSymbol =
          some { decoder := { d with bitsReceived := BitVec.ofNat 6 n }, result := .incomplete, repeated := false }) ∧
        (17 ≤ n → n ≤ 24 → assemble d bitSymbol =
          some
            { decoder := { d with bitsReceived := BitVec.ofNat 6 n, commandBits := shl8 d.commandBits b }
              result := .incomplete
              repeated := false }) ∧
        (25 ≤ n → n ≤ 31 → assemble d bitSymbol =
          some
            { decoder := { d with
                bitsReceived := BitVec.ofNat 6 n
                inverseCommandBits := shl8 d.inverseCommandBits b }
              result := .incomplete
              repeated := false }) ∧
        (n = 32 →
          (∀ c, validate d.commandBits (shl8 d.inverseCommandBits b) Config.known = some c →
            assemble d bitSymbol = some { decoder := freshDecoder, result := .command c, repeated := false }) ∧
          (validate d.commandBits (shl8 d.inverseCommandBits b) Config.known = none →
            assemble d bitSymbol = some { decoder := freshDecoder, result := .decodeFailed, repeated := false })))

/-- Spec 41 R120: the symbols that contradict the phase are exactly those the assembler refuses, and the classifier,
asked with the assembler's own phase, never produces one. -/
def Obligations.AssemblerIsNeverGivenAContradictorySymbol : Prop :=
  (∀ (d : DecoderState) (y : Symbol), assemble d y = none ↔
    d.phase = .awaitingStartOrRepeat ∧ y ∈ [Symbol.bit0, .bit1, .invalid] ∨
    d.phase = .accumulatingBits ∧ y ∈ [Symbol.startDetected, .repeatDetected, .noSymbol]) ∧
  (∀ (d : DecoderState) (x : Nat), assemble d (classify d.phase x) ≠ none)

/-- Spec 41 R119: `((acc << 1) OR b) AND 0xFF` in unbounded naturals. -/
def Obligations.ShiftIsTheSpecsFormula : Prop :=
  ∀ (acc : Byte) (b : Bool), (shl8 acc b).toNat = ((acc.toNat <<< 1) ||| b.toNat) &&& 0xFF

/-- Spec 42 R131: the four tests in order, for any allow-list. -/
def Obligations.ValidatorMakesTheFourTestsInOrder : Prop :=
  ∀ (command inverse : Byte) (known : List Byte),
    (command = ~~~inverse → validate command inverse known = some command) ∧
    (command ≠ ~~~inverse → command ∈ known → validate command inverse known = some command) ∧
    (command ≠ ~~~inverse → command ∉ known → ~~~inverse ∈ known →
      validate command inverse known = some (~~~inverse)) ∧
    (command ≠ ~~~inverse → command ∉ known → ~~~inverse ∉ known → validate command inverse known = none)

/-- Spec 42 section 1 (the corner cases the spec derives): every byte can be reported; an accepted byte is one of the
two; rejection means both tests failed; an empty list is the strict check, a full one accepts the command byte. -/
def Obligations.ValidatorCornerCases : Prop :=
  (∀ (c : Byte) (known : List Byte), validate c (c ^^^ 0xFF#8) known = some c) ∧
  (∀ (c i v : Byte) (known : List Byte), validate c i known = some v → v = c ∨ v = i ^^^ 0xFF#8) ∧
  (∀ (c i : Byte) (known : List Byte),
    validate c i known = none ↔ c ≠ i ^^^ 0xFF#8 ∧ c ∉ known ∧ i ^^^ 0xFF#8 ∉ known) ∧
  (∀ c i : Byte, (validate c i []).isSome = true ↔ c = i ^^^ 0xFF#8) ∧
  (∀ (c i : Byte) (known : List Byte), (∀ b, b ∈ known) → validate c i known = some c)

/-- Spec 42 R133: `KNOWN` has 17 distinct members, and the model constrains it to nothing more: every
list of 17 distinct bytes is the first 17 of some order of the bytes (log 4). -/
def Obligations.KnownIsAnySetOfSeventeenBytes : Prop :=
  (Config.known.length = 17 ∧ Config.known.Nodup) ∧
  (∀ l : List Byte, l.length = 17 → l.Nodup →
    ∃ order : Equiv.Perm (BitVec 8), l = (List.range 17).map fun k => order (BitVec.ofNat 8 k))

/-- Spec 43 R145: the new deadline is `now + 120` exactly, up to the largest clock value. -/
def Obligations.DeadlineIsTheExactSum : Prop :=
  ∀ now : Time, (deadlineFrom now).toNat = now.toNat + 120

/-! ## Frames: what a transaction may touch -/

/-- Spec 10 R41: which transaction may write which register, and how. No transaction touches the presented words. -/
def Obligations.OwnershipTableHolds : Prop :=
  ∀ (i : Instr) (s t : State), exec i s = .next t → t.pending = s.pending ∧
    match i with
    | .pulse _ _ _ =>
      t.connected = s.connected ∧
      (t.tracker.activeCommand = s.tracker.activeCommand ∨ ∃ c, t.tracker.activeCommand = some c) ∧
      (s.tracker.hasUnseenPress = true → t.tracker.hasUnseenPress = true)
    | .tick _ =>
      t.connected = s.connected ∧ t.decoder = s.decoder ∧
      (t.tracker = s.tracker ∨ t.tracker = { s.tracker with activeCommand := none })
    | .poll _ =>
      t.connected = s.connected ∧ t.decoder = s.decoder ∧ t.tracker = { s.tracker with hasUnseenPress := false }
    | .connect _ => t.connected = true ∧ t.decoder = s.decoder ∧ t.tracker = s.tracker
    | .current _ => t.connected = s.connected ∧ t.decoder = s.decoder ∧ t.tracker = s.tracker
    | .isPressed _ _ => t.connected = s.connected ∧ t.decoder = s.decoder ∧ t.tracker = s.tracker
    | .nop _ => t.connected = s.connected ∧ t.decoder = s.decoder ∧ t.tracker = s.tracker

/-- Spec 43 R146: the events of a transaction are none, one, or a release of the held command followed by a press of
a different one. -/
def Obligations.EventsPerTransactionAreAtMostTwo : Prop :=
  ∀ (i : Instr) (s : State), ∃ t r, exec i s = .next t ∧ t.responses = s.responses ++ [r] ∧
    (responseEvents r = [] ∨ (∃ c, responseEvents r = [.pressed c]) ∨ (∃ p, responseEvents r = [.released p]) ∨
      ∃ p c, p ≠ c ∧ s.tracker.activeCommand = some p ∧ t.tracker.activeCommand = some c ∧
        responseEvents r = [.released p, .pressed c])

/-- Spec 43 section 2 (consequences (b), (c) the spec derives): a press comes only from a `PULSE` that completes an
accepted frame of a command not held; a release only from a `TICK` past the deadline or a press of another command. -/
def Obligations.EventsComeOnlyFromTheirCauses : Prop :=
  ∀ (i : Instr) (s t : State) (r : RspWord), DecoderInv s.decoder → exec i s = .next t →
    t.responses = s.responses ++ [r] →
    (∀ c, .pressed c ∈ responseEvents r →
      ∃ mark space now, i = .pulse mark space now ∧ s.connected = true ∧ s.decoder.phase = .accumulatingBits ∧
        s.decoder.bitsReceived = 31#6 ∧ mark.toNat + space.toNat < 2700 ∧
        validate s.decoder.commandBits
          (BitVec.ofNat 8
            (2 * s.decoder.inverseCommandBits.toNat + if mark.toNat + space.toNat < 1600 then 0 else 1))
          Config.known = some c ∧
        s.tracker.activeCommand ≠ some c ∧ t.tracker.activeCommand = some c) ∧
    (∀ p, .released p ∈ responseEvents r → s.tracker.activeCommand = some p ∧
      ((∃ now, i = .tick now ∧ s.tracker.repeatDeadline.toNat < now.toNat ∧ t.tracker.activeCommand = none) ∨
        ∃ c, c ≠ p ∧ .pressed c ∈ responseEvents r))

/-- Spec 43 section 2 (consequence (e)), spec 10 R30: after any transaction but `POLL` the latch is what it was, or
set if the transaction emitted a press; after `POLL` it is clear. -/
def Obligations.LatchRecordsEveryPress : Prop :=
  ∀ (i : Instr) (s t : State) (r : RspWord), exec i s = .next t → t.responses = s.responses ++ [r] →
    (t.tracker.hasUnseenPress = true ↔
      (∀ now, i ≠ .poll now) ∧ (s.tracker.hasUnseenPress = true ∨ ∃ c, .pressed c ∈ responseEvents r))

/-- Spec 10 section 3 (invariant (d) the spec derives): the deadline changes only in a connected `PULSE`, to its own
`now + 120`, and something is held after it. In a state that meets the decoder invariant that `PULSE` is a repeat signal
while something is held (which stays held), or completes an accepted frame whose command is held after it: a refresh or
a press. A press always writes the deadline so. -/
def Obligations.DeadlineIsWrittenOnlyByPressOrRefresh : Prop :=
  ∀ (i : Instr) (s t : State), exec i s = .next t →
    (t.tracker.repeatDeadline ≠ s.tracker.repeatDeadline →
      ∃ mark space now, i = .pulse mark space now ∧ s.connected = true ∧
        t.tracker.repeatDeadline.toNat = now.toNat + 120 ∧ t.tracker.activeCommand ≠ none ∧
        (DecoderInv s.decoder →
          (s.decoder.phase = .awaitingStartOrRepeat ∧
            10000 ≤ mark.toNat + space.toNat ∧ mark.toNat + space.toNat < 12500 ∧
            s.tracker.activeCommand ≠ none ∧ t.tracker.activeCommand = s.tracker.activeCommand) ∨
          ∃ c, s.decoder.phase = .accumulatingBits ∧ s.decoder.bitsReceived = 31#6 ∧
            mark.toNat + space.toNat < 2700 ∧
            validate s.decoder.commandBits
              (BitVec.ofNat 8
                (2 * s.decoder.inverseCommandBits.toNat + if mark.toNat + space.toNat < 1600 then 0 else 1))
              Config.known = some c ∧
            t.tracker.activeCommand = some c)) ∧
    (∀ c mark space now, i = .pulse mark space now → t.tracker.activeCommand = some c →
      s.tracker.activeCommand ≠ some c → t.tracker.repeatDeadline.toNat = now.toNat + 120)

/-! ## Invariants -/

/-- Spec 10 section 2 (the invariant the spec derives of DecoderState): every step keeps it. -/
def Obligations.DecoderInvariantIsKept : Prop :=
  ∀ s t : State, DecoderInv s.decoder → step s = .next t → DecoderInv t.decoder

/-- Spec 10 section 3 (the invariants (a) to (c) the spec derives of ButtonTrackerState): every step keeps them. -/
def Obligations.TrackerInvariantIsKept : Prop :=
  ∀ s t : State, TrackerInv s → step s = .next t → TrackerInv t

/-- Spec 43 section 2 (consequence (a) the spec derives): presses and releases alternate and match, over the whole
history of responses; every step keeps it. -/
def Obligations.EventAlternationIsKept : Prop :=
  ∀ s t : State, EventsInv s → step s = .next t → EventsInv t

/-- The three invariants hold at reset. That no response has been given then is the model's choice (log 2). -/
def Obligations.InvariantsHoldAtReset : Prop :=
  DecoderInv State.reset.decoder ∧ TrackerInv State.reset ∧ EventsInv State.reset

/-! ## Runs -/

/-- Spec 41 section 2 (a), (b), (f) with spec 30 R82 and spec 20 R51: from a freshly opened frame, ANY 32 bit-length
pulses complete it at the 32nd; bits 1 to 16 have no influence, bits 17 to 24 and 25 to 32 are the command and inverse
bytes, first bit uppermost; only the last pulse's clock is read. What the tracker then does is `onCommand`, stated in
LastBitValidatesResetsAndPresses. -/
def Obligations.AnyThirtyTwoBitsCompleteAFrame : Prop :=
  ∀ (ps : List RawPulse) (last : RawPulse) (s : State),
    ps.length = 31 → (∀ p ∈ ps ++ [last], p.length < 2700) → s.connected = true →
    s.decoder = { phase := .accumulatingBits, bitsReceived := 0#6, commandBits := 0#8, inverseCommandBits := 0#8 } →
    let bits := (ps ++ [last]).map RawPulse.bit
    let answer := validate (byteOfBits ((bits.drop 16).take 8)) (byteOfBits (bits.drop 24)) Config.known
    let tracked : Tracked :=
      match answer with
      | some c => onCommand s.tracker c last.now
      | none => { tracker := s.tracker, events := [] }
    runAll ((ps ++ [last]).map RawPulse.txn) s =
      .next { s with
        decoder := State.reset.decoder
        tracker := tracked.tracker
        responses := s.responses ++ List.replicate 31 quietRsp ++ [okResponse 0#9 tracked.events] }

/-- Spec 95 section 1, S2 (the source's round trip), with spec 30 R84: a protocol-correct frame of pulses for ANY
address bytes and ANY command byte, sent to an idle, connected block awaiting a start, is decoded to that command and
leaves the decoder clear. -/
def Obligations.FrameRoundTripPressesItsCommand : Prop :=
  ∀ (p q c : Byte) (now : Time) (s : State),
    s.connected = true → s.decoder = State.reset.decoder → s.tracker.activeCommand = none →
    runAll (expandPseudo (.frame4 p q c (c ^^^ 0xFF#8) now)) s =
      .next { s with
        tracker :=
          { activeCommand := some c
            repeatDeadline := BitVec.ofNat 33 (now.toNat + 120)
            lastCommand := some c
            hasUnseenPress := true }
        responses := s.responses ++ List.replicate 32 quietRsp ++ [pressedRsp c] }

/-- Spec 20 section 5 (what the spec derives from the ownership table): leaving out every transaction that is not a
`PULSE` changes nothing in DecoderState at the end of a run. -/
def Obligations.OnlyPulsesMatterToTheDecoder : Prop :=
  ∀ (is : List Instr) (s t : State), s.connected = true → runAll is s = .next t →
    ∃ u, runAll (is.filter isPulse) s = .next u ∧ u.decoder = t.decoder

/-- Spec 10 section 3: nothing reads `repeatDeadline` while `Idle`. Two runs of the same transactions from states that
differ only in an idle tracker's deadline register are answered alike to the end. That the register keeps a value while
`Idle` is the model's choice (log 6). -/
def Obligations.IdleDeadlineIsUnobservable : Prop :=
  ∀ (is : List Instr) (s : State) (d : Deadline), s.tracker.activeCommand = none →
    ∃ t u, runAll is s = .next t ∧ runAll is { s with tracker := { s.tracker with repeatDeadline := d } } = .next u ∧
      u.responses = t.responses ∧ u.decoder = t.decoder ∧ u.tracker.mode = t.tracker.mode

/-- Spec 43 R144 over a run (spec 95 section 1, S6): among any `TICK`s with no other transaction, exactly one release
is emitted if one of them is past the deadline, and none otherwise. -/
def Obligations.TicksReleaseExactlyOnce : Prop :=
  ∀ (ts : List Time) (s : State) (p : Byte), s.connected = true → s.tracker.activeCommand = some p →
    ∃ t rs, runAll (ts.map Instr.tick) s = .next t ∧ t.responses = s.responses ++ rs ∧
      ((∃ u ∈ ts, s.tracker.repeatDeadline.toNat < u.toNat) →
        eventsOf rs = [.released p] ∧ t.tracker = { s.tracker with activeCommand := none }) ∧
      ((∀ u ∈ ts, u.toNat ≤ s.tracker.repeatDeadline.toNat) → eventsOf rs = [] ∧ t.tracker = s.tracker)

/-- Spec 10 section 3 (the second half of invariant (d) the spec derives), over any run: under the clock premise of spec
20 section 5 the deadline register never decreases. The spec says it of `Holding` only, and of the stamps of `PULSE`s
only; that the register keeps its value while `Idle`, so that it does not decrease there either, is the model's choice
(log 6), and the premise is the environment's whole duty, on `PULSE`s and `TICK`s. -/
def Obligations.DeadlineNeverDecreasesUnderTheClockPremise : Prop :=
  ∀ (is : List Instr) (s t : State) (start : Nat), s.tracker.repeatDeadline.toNat ≤ start + 120 →
    ClockFrom start is → runAll is s = .next t →
    s.tracker.repeatDeadline.toNat ≤ t.tracker.repeatDeadline.toNat

/-- Spec 60 R198: past the deadline, a `TICK` before the completing pulse of the held command gives a release and a
new press and sets the latch; after it, a silent refresh. Both orders run. -/
def Obligations.OrderOfTickAndFrameDecides : Prop :=
  ∀ (mark space : Duration) (now : Time) (s : State) (p : Byte),
    s.connected = true → s.decoder.phase = .accumulatingBits → s.decoder.bitsReceived = 31#6 →
    mark.toNat + space.toNat < 2700 →
    validate s.decoder.commandBits
      (BitVec.ofNat 8 (2 * s.decoder.inverseCommandBits.toNat + if mark.toNat + space.toNat < 1600 then 0 else 1))
      Config.known = some p →
    s.tracker.activeCommand = some p → s.tracker.repeatDeadline.toNat < now.toNat →
    (∃ t, runAll [.tick now, .pulse mark space now] s = .next t ∧
      t.responses = s.responses ++ [releasedRsp p, pressedRsp p] ∧ t.tracker.hasUnseenPress = true ∧
      t.tracker.activeCommand = some p) ∧
    (∃ t, runAll [.pulse mark space now, .tick now] s = .next t ∧
      t.responses = s.responses ++ [quietRsp, quietRsp] ∧
      t.tracker = { s.tracker with repeatDeadline := BitVec.ofNat 33 (now.toNat + 120) })

/-- Spec 44 R165 over a run (spec 95 section 1, S8). After a `POLL`, a later one answers 0 as long as no press has been
emitted in between, whatever else was presented, other `POLL`s too. If one or more presses have been emitted in between,
and no other `POLL` was presented, it answers 1 and clears the latch, so that the next one answers 0 again. -/
def Obligations.PollAnswersTrueOncePerPress : Prop :=
  ∀ (is : List Instr) (s t : State) (now now' now'' : Time), runAll (.poll now :: is) s = .next t →
    ∃ r rs, t.responses = s.responses ++ r :: rs ∧
      ((∀ c, .pressed c ∉ eventsOf rs) →
        exec (.poll now') t = .next { t with responses := t.responses ++ [0x00000000#32] }) ∧
      ((∀ i ∈ is, ∀ n, i ≠ .poll n) → (∃ c, .pressed c ∈ eventsOf rs) →
        runAll [.poll now', .poll now''] t =
          .next { t with
            tracker := { t.tracker with hasUnseenPress := false }
            responses := t.responses ++ [0x00100000#32, 0x00000000#32] })

/-- Spec 60 R201, spec 70 section 3 (what the spec derives of a start pulse in mid-frame): after an abort, any further
pulses of the failed frame, being shorter than 10000 µs, change nothing and emit nothing, however many come. -/
def Obligations.TailOfAnAbortedFrameIsIgnored : Prop :=
  ∀ (first : RawPulse) (tail : List RawPulse) (s : State),
    s.connected = true → s.decoder.phase = .accumulatingBits → 2700 ≤ first.length →
    (∀ p ∈ tail, p.length < 10000) →
    runAll ((first :: tail).map RawPulse.txn) s =
      .next { s with
        decoder := State.reset.decoder
        responses := s.responses ++ List.replicate (tail.length + 1) quietRsp }
end

