-- ==== Sys2Proof/Laws/State.lean ====
section
/-!
SUPPORT. One lemma per field per update of the state, so that no later proof unfolds a record update.
-/

namespace Sys2Proof.Machine

/-! ## The control bit and the latch -/

@[simp] theorem State.setConnected_connected (s : State) : s.setConnected.connected = true := rfl
@[simp] theorem State.setConnected_decoder (s : State) : s.setConnected.decoder = s.decoder := rfl
@[simp] theorem State.setConnected_tracker (s : State) : s.setConnected.tracker = s.tracker := rfl
@[simp] theorem State.setConnected_pending (s : State) : s.setConnected.pending = s.pending := rfl
@[simp] theorem State.setConnected_responses (s : State) : s.setConnected.responses = s.responses := rfl

@[simp] theorem ButtonTrackerState.clearUnseen_activeCommand (t : ButtonTrackerState) :
    t.clearUnseen.activeCommand = t.activeCommand := rfl
@[simp] theorem ButtonTrackerState.clearUnseen_repeatDeadline (t : ButtonTrackerState) :
    t.clearUnseen.repeatDeadline = t.repeatDeadline := rfl
@[simp] theorem ButtonTrackerState.clearUnseen_lastCommand (t : ButtonTrackerState) :
    t.clearUnseen.lastCommand = t.lastCommand := rfl
@[simp] theorem ButtonTrackerState.clearUnseen_hasUnseenPress (t : ButtonTrackerState) :
    t.clearUnseen.hasUnseenPress = false := rfl

/-! ## Answering -/

@[simp] theorem State.answer_connected (s : State) (r : RspWord) : (s.answer r).connected = s.connected := rfl
@[simp] theorem State.answer_decoder (s : State) (r : RspWord) : (s.answer r).decoder = s.decoder := rfl
@[simp] theorem State.answer_tracker (s : State) (r : RspWord) : (s.answer r).tracker = s.tracker := rfl
@[simp] theorem State.answer_pending (s : State) (r : RspWord) : (s.answer r).pending = s.pending := rfl
@[simp] theorem State.answer_responses (s : State) (r : RspWord) : (s.answer r).responses = s.responses ++ [r] := rfl

@[simp] theorem State.respondOk_connected (s : State) (d : ReadData) (es : List Event) :
    (s.respondOk d es).connected = s.connected := rfl
@[simp] theorem State.respondOk_decoder (s : State) (d : ReadData) (es : List Event) :
    (s.respondOk d es).decoder = s.decoder := rfl
@[simp] theorem State.respondOk_tracker (s : State) (d : ReadData) (es : List Event) :
    (s.respondOk d es).tracker = s.tracker := rfl
@[simp] theorem State.respondOk_pending (s : State) (d : ReadData) (es : List Event) :
    (s.respondOk d es).pending = s.pending := rfl
@[simp] theorem State.respondOk_responses (s : State) (d : ReadData) (es : List Event) :
    (s.respondOk d es).responses = s.responses ++ [okResponse d es] := rfl

@[simp] theorem State.respondIllegal_connected (s : State) : s.respondIllegal.connected = s.connected := rfl
@[simp] theorem State.respondIllegal_decoder (s : State) : s.respondIllegal.decoder = s.decoder := rfl
@[simp] theorem State.respondIllegal_tracker (s : State) : s.respondIllegal.tracker = s.tracker := rfl
@[simp] theorem State.respondIllegal_pending (s : State) : s.respondIllegal.pending = s.pending := rfl
@[simp] theorem State.respondIllegal_responses (s : State) :
    s.respondIllegal.responses = s.responses ++ [illegalResponse] := rfl

/-! ## Presenting words -/

@[simp] theorem State.present_connected (s : State) (ws : List TxnWord) : (s.present ws).connected = s.connected := rfl
@[simp] theorem State.present_decoder (s : State) (ws : List TxnWord) : (s.present ws).decoder = s.decoder := rfl
@[simp] theorem State.present_tracker (s : State) (ws : List TxnWord) : (s.present ws).tracker = s.tracker := rfl
@[simp] theorem State.present_pending (s : State) (ws : List TxnWord) :
    (s.present ws).pending = s.pending ++ ws := rfl
@[simp] theorem State.present_responses (s : State) (ws : List TxnWord) :
    (s.present ws).responses = s.responses := rfl

@[simp] theorem presentFirst_connected (s : State) (w : TxnWord) : (presentFirst s w).connected = s.connected := rfl
@[simp] theorem presentFirst_decoder (s : State) (w : TxnWord) : (presentFirst s w).decoder = s.decoder := rfl
@[simp] theorem presentFirst_tracker (s : State) (w : TxnWord) : (presentFirst s w).tracker = s.tracker := rfl
@[simp] theorem presentFirst_pending (s : State) (w : TxnWord) : (presentFirst s w).pending = w :: s.pending := rfl
@[simp] theorem presentFirst_responses (s : State) (w : TxnWord) : (presentFirst s w).responses = s.responses := rfl

/-- The word put first is the one the next step takes. -/
theorem acceptNext_presentFirst (s : State) (w : TxnWord) : acceptNext (presentFirst s w) = transact w s := rfl

/-! ## The decoder reset -/

@[simp] theorem decoderReset_phase (d : DecoderState) : (decoderReset d).phase = .awaitingStartOrRepeat := rfl
@[simp] theorem decoderReset_bitsReceived (d : DecoderState) : (decoderReset d).bitsReceived = 0#6 := rfl
@[simp] theorem decoderReset_commandBits (d : DecoderState) : (decoderReset d).commandBits = 0x00#8 := rfl
@[simp] theorem decoderReset_inverseCommandBits (d : DecoderState) : (decoderReset d).inverseCommandBits = 0x00#8 := rfl

/-- Where the decoder reset leads does not depend on where it starts, and is the reset value (spec 10 R26, R40). -/
theorem decoderReset_eq_initial (d : DecoderState) : decoderReset d = DecoderState.initial := rfl

end Sys2Proof.Machine
end

