-- ==== Sys2Proof/Laws/Words.lean ====
section
/-!
SUPPORT. What the word operations do: the fields of a transaction word, the slots of a response word, the shift and the
two sums, each said once.
-/

namespace Sys2Proof

/-- Reading the fields of a word gives the fields it was made of. -/
@[simp] theorem splitWord_joinWord (f : TxnFields) : splitWord (joinWord f) = f := by
  obtain ⟨op, now, a, b⟩ := f
  simp only [splitWord, joinWord, TxnFields.mk.injEq]
  refine ⟨?_, ?_, ?_, ?_⟩ <;>
    (ext i hi; simp only [BitVec.getElem_extractLsb', BitVec.getLsbD_append]; grind)

/-- A word is the word of its fields. -/
@[simp] theorem joinWord_splitWord (w : TxnWord) : joinWord (splitWord w) = w := by
  apply BitVec.eq_of_getLsbD_eq
  intro i hi
  simp only [splitWord, joinWord, BitVec.getLsbD_append, BitVec.getLsbD_extractLsb']
  grind

end Sys2Proof

namespace Sys2Proof.Machine

/-! ## Event slots -/

/-- The low byte of a slot is its command byte. -/
theorem eventWord_low (k : BitVec 2) (c : Byte) : (k ++ c : EventWord).extractLsb' 0 8 = c := by
  ext i hi
  simp only [BitVec.getElem_extractLsb', BitVec.getLsbD_append]
  grind

/-- The two bits above it are valid and kind. -/
theorem eventWord_high (k : BitVec 2) (c : Byte) (j : Nat) :
    (k ++ c : EventWord).getLsbD (8 + j) = k.getLsbD j := by
  simp only [BitVec.getLsbD_append]
  grind

/-- An event's slot reads back as the event (spec 30 R75). -/
@[simp] theorem readEventSlot_code (e : Event) : readEventSlot e.code = some e := by
  cases e with
  | pressed c =>
    simp only [Event.code, readEventSlot, eventWord_low, eventWord_high 0b10#2 c 1, eventWord_high 0b10#2 c 0]
    simp
  | released c =>
    simp only [Event.code, readEventSlot, eventWord_low, eventWord_high 0b11#2 c 1, eventWord_high 0b11#2 c 0]
    simp

@[simp] theorem readEventSlot_zero : readEventSlot 0x000#10 = none := by decide

@[simp] theorem eventSlot_none : eventSlot none = 0x000#10 := rfl

@[simp] theorem eventSlot_some (e : Event) : eventSlot (some e) = e.code := rfl

/-! ## Responses (spec 30 R74) -/

/-- The first slot of a response's bits. -/
theorem rspBits_first (d : ReadData) (x y : EventWord) :
    (0b000#3 ++ d ++ x ++ y : RspWord).extractLsb' 10 10 = x := by
  ext i hi
  simp only [BitVec.getElem_extractLsb', BitVec.getLsbD_append]
  grind

/-- The second slot of a response's bits. -/
theorem rspBits_second (d : ReadData) (x y : EventWord) :
    (0b000#3 ++ d ++ x ++ y : RspWord).extractLsb' 0 10 = y := by
  ext i hi
  simp only [BitVec.getElem_extractLsb', BitVec.getLsbD_append]
  grind

/-- The read data of a response's bits. -/
theorem rspBits_data (d : ReadData) (x y : EventWord) :
    (0b000#3 ++ d ++ x ++ y : RspWord).extractLsb' 20 9 = d := by
  ext i hi
  simp only [BitVec.getElem_extractLsb', BitVec.getLsbD_append]
  grind

@[simp] theorem okResponse_first (d : ReadData) (es : List Event) :
    (okResponse d es).extractLsb' 10 10 = eventSlot es[0]? := rspBits_first _ _ _

@[simp] theorem okResponse_second (d : ReadData) (es : List Event) :
    (okResponse d es).extractLsb' 0 10 = eventSlot es[1]? := rspBits_second _ _ _

@[simp] theorem responseData_okResponse (d : ReadData) (es : List Event) : responseData (okResponse d es) = d :=
  rspBits_data _ _ _

@[simp] theorem responseIllegal_okResponse (d : ReadData) (es : List Event) :
    responseIllegal (okResponse d es) = false := by
  simp only [responseIllegal, okResponse, BitVec.getLsbD_append]
  simp

@[simp] theorem responseEvents_okResponse_nil (d : ReadData) : responseEvents (okResponse d []) = [] := by
  simp [responseEvents]

@[simp] theorem responseEvents_okResponse_one (d : ReadData) (e : Event) :
    responseEvents (okResponse d [e]) = [e] := by
  simp [responseEvents]

@[simp] theorem responseEvents_okResponse_two (d : ReadData) (e f : Event) :
    responseEvents (okResponse d [e, f]) = [e, f] := by
  simp [responseEvents]

@[simp] theorem responseEvents_illegalResponse : responseEvents illegalResponse = [] := by decide

/-! ## The shift and the sums -/

/-- The shift doubles and adds the bit, modulo 256 (spec 41 R119). -/
theorem shl8_eq_ofNat (acc : Byte) (b : Bool) : shl8 acc b = BitVec.ofNat 8 (2 * acc.toNat + b.toNat) := by
  revert acc b
  decide

/-- The deadline register holds `now + HOLD_MS` without wrap (spec 00 R10). -/
theorem deadlineFrom_toNat_eq_hold (now : Time) : (deadlineFrom now).toNat = now.toNat + Config.holdMs := by
  simp only [deadlineFrom, Config.holdMs, BitVec.toNat_ofNat]
  omega

end Sys2Proof.Machine
end

