-- ==== Sys2Proof/Laws/Components.lean ====
section
/-!
SUPPORT. One lemma per component that says once what it can do; a later proof cites it and does not unfold the
component.
-/

namespace Sys2Proof.Machine

/-! ## Classifier (spec 40) -/

/-- What the classifier answers while awaiting, with the window it lies in (spec 40 R101). -/
theorem classify_awaiting_cases (x : Nat) :
    (classify .awaitingStartOrRepeat x = .noSymbol ∧ (x < 10000 ∨ 14500 ≤ x)) ∨
    (classify .awaitingStartOrRepeat x = .repeatDetected ∧ 10000 ≤ x ∧ x < 12500) ∨
    (classify .awaitingStartOrRepeat x = .startDetected ∧ 12500 ≤ x ∧ x < 14500) := by
  simp only [classify, classifyAwaiting, Config.repeatMin, Config.startMin, Config.startEnd]
  split_ifs <;> grind

/-- What the classifier answers while accumulating, with the window it lies in (spec 40 R102). -/
theorem classify_accumulating_cases (x : Nat) :
    (classify .accumulatingBits x = .bit0 ∧ x < 1600) ∨
    (classify .accumulatingBits x = .bit1 ∧ 1600 ≤ x ∧ x < 2700) ∨
    (classify .accumulatingBits x = .invalid ∧ 2700 ≤ x) := by
  simp only [classify, classifyAccumulating, Config.bit1Min, Config.bitEnd]
  split_ifs <;> grind

/-! ## Assembler (spec 41) -/

/-- What `assemble` answers, case by case; every answer is one of these (spec 41 R111 to R118). -/
theorem assemble_cases {d : DecoderState} {y : Symbol} {a : Assembled} (h : assemble d y = some a) :
    (d.phase = .awaitingStartOrRepeat ∧
      ((y = .noSymbol ∧ a = { decoder := d, result := .incomplete, repeated := false }) ∨
        (y = .repeatDetected ∧ a = { decoder := d, result := .incomplete, repeated := true }) ∨
        (y = .startDetected ∧
          a = { decoder := { d with phase := .accumulatingBits }, result := .incomplete, repeated := false }))) ∨
    (d.phase = .accumulatingBits ∧
      ((y = .bit0 ∧ a = assembleBit d false) ∨ (y = .bit1 ∧ a = assembleBit d true) ∨
        (y = .invalid ∧ a = { decoder := decoderReset d, result := .aborted, repeated := false }))) := by
  unfold assemble at h
  split at h <;> simp_all

/-- A frame bit up to the 16th (spec 41 R114). -/
theorem assembleBit_address (d : DecoderState) (b : Bool) (h : d.bitsReceived.toNat + 1 ≤ 16) :
    assembleBit d b =
      { decoder := { d with bitsReceived := BitVec.ofNat 6 (d.bitsReceived.toNat + 1) }
        result := .incomplete
        repeated := false } := by
  simp [assembleBit, Config.addrBits, h]

/-- A frame bit from the 17th to the 24th (spec 41 R115). -/
theorem assembleBit_command (d : DecoderState) (b : Bool) (h : 17 ≤ d.bitsReceived.toNat + 1)
    (h' : d.bitsReceived.toNat + 1 ≤ 24) :
    assembleBit d b =
      { decoder := { d with
          bitsReceived := BitVec.ofNat 6 (d.bitsReceived.toNat + 1)
          commandBits := shl8 d.commandBits b }
        result := .incomplete
        repeated := false } := by
  have h1 : ¬ d.bitsReceived.toNat + 1 ≤ 16 := by omega
  simp [assembleBit, Config.addrBits, Config.cmdLast, h1, h']

/-- A frame bit from the 25th to the 31st (spec 41 R116). -/
theorem assembleBit_inverse (d : DecoderState) (b : Bool) (h : 25 ≤ d.bitsReceived.toNat + 1)
    (h' : d.bitsReceived.toNat + 1 ≤ 31) :
    assembleBit d b =
      { decoder := { d with
          bitsReceived := BitVec.ofNat 6 (d.bitsReceived.toNat + 1)
          inverseCommandBits := shl8 d.inverseCommandBits b }
        result := .incomplete
        repeated := false } := by
  have h1 : ¬ d.bitsReceived.toNat + 1 ≤ 16 := by omega
  have h2 : ¬ d.bitsReceived.toNat + 1 ≤ 24 := by omega
  have h3 : d.bitsReceived.toNat + 1 < 32 := by omega
  simp [assembleBit, Config.addrBits, Config.cmdLast, Config.frameBits, h1, h2, h3]

/-- The 32nd frame bit (spec 41 R117). -/
theorem assembleBit_last (d : DecoderState) (b : Bool) (h : 32 ≤ d.bitsReceived.toNat + 1) :
    assembleBit d b = assembleLastBit d b := by
  have h1 : ¬ d.bitsReceived.toNat + 1 ≤ 16 := by omega
  have h2 : ¬ d.bitsReceived.toNat + 1 ≤ 24 := by omega
  have h3 : ¬ d.bitsReceived.toNat + 1 < 32 := by omega
  simp [assembleBit, Config.addrBits, Config.cmdLast, Config.frameBits, h1, h2, h3]

/-- A bit symbol is never a repeat signal (spec 41 R110). -/
@[simp] theorem assembleBit_repeated (d : DecoderState) (b : Bool) : (assembleBit d b).repeated = false := by
  simp only [assembleBit, assembleLastBit]
  split_ifs <;> rfl

@[simp] theorem assembleLastBit_decoder (d : DecoderState) (b : Bool) :
    (assembleLastBit d b).decoder = DecoderState.initial := rfl

@[simp] theorem assembleLastBit_repeated (d : DecoderState) (b : Bool) : (assembleLastBit d b).repeated = false := rfl

/-- The 32nd bit's result when the validator accepts (spec 41 R117). -/
theorem assembleLastBit_accepted (d : DecoderState) (b : Bool) (c : Byte)
    (h : validate d.commandBits (shl8 d.inverseCommandBits b) Config.known = some c) :
    (assembleLastBit d b).result = .command c := by
  simp [assembleLastBit, h]

/-- The 32nd bit's result when the validator rejects (spec 41 R117). -/
theorem assembleLastBit_rejected (d : DecoderState) (b : Bool)
    (h : validate d.commandBits (shl8 d.inverseCommandBits b) Config.known = none) :
    (assembleLastBit d b).result = .decodeFailed := by
  simp [assembleLastBit, h]

/-! ## Tracker (spec 43) -/

/-- What a `PULSE` can do to the tracker: nothing; move the deadline of a held command, on a repeat signal or on the
same command decoded again; or press a command that is not held (spec 43 R141 to R143). -/
theorem track_cases (t : ButtonTrackerState) (a : Assembled) (now : Time) :
    track t a now = { tracker := t, events := [] } ∨
    ((t.activeCommand ≠ none ∧ (a.repeated = true ∨ ∃ c, a.result = .command c ∧ t.activeCommand = some c)) ∧
      track t a now = refresh t now) ∨
    ∃ c, a.result = .command c ∧ t.activeCommand ≠ some c ∧ track t a now = press t c now := by
  have onRepeat_cases : onRepeat t now = { tracker := t, events := [] } ∨
      (t.activeCommand ≠ none ∧ onRepeat t now = refresh t now) := by
    unfold onRepeat
    split <;> simp_all
  unfold track
  split
  · rename_i c hc
    unfold onCommand
    split_ifs with h
    · exact .inr (.inl ⟨⟨by simp [h], .inr ⟨c, hc, h⟩⟩, rfl⟩)
    · exact .inr (.inr ⟨c, hc, h, rfl⟩)
  all_goals
    split_ifs with hr
    · exact onRepeat_cases.elim .inl fun h => .inr (.inl ⟨⟨h.1, .inl hr⟩, h.2⟩)
    · exact .inl rfl

/-- What a timeout check can do: nothing, or release the held command past its deadline (spec 43 R144). -/
theorem onTimeout_cases (t : ButtonTrackerState) (now : Time) :
    (onTimeout t now = { tracker := t, events := [] } ∧
      (t.activeCommand = none ∨ now.toNat ≤ t.repeatDeadline.toNat)) ∨
    ∃ p, t.activeCommand = some p ∧ t.repeatDeadline.toNat < now.toNat ∧
      onTimeout t now = { tracker := { t with activeCommand := none }, events := [.released p] } := by
  unfold onTimeout
  split
  · rename_i p hp
    split_ifs with h
    · exact .inr ⟨p, hp, by simpa [pastDeadline] using h, rfl⟩
    · exact .inl ⟨rfl, .inr (by simpa [pastDeadline] using h)⟩
  · rename_i hn
    exact .inl ⟨rfl, .inl hn⟩

/-- The events of a press, when nothing is held (spec 43 R141). -/
theorem press_events_idle (t : ButtonTrackerState) (c : Byte) (now : Time) (h : t.activeCommand = none) :
    (press t c now).events = [.pressed c] := by
  simp [press, releaseHeld, h]

/-- The events of a press, when another command is held (spec 43 R141). -/
theorem press_events_holding (t : ButtonTrackerState) (c p : Byte) (now : Time) (h : t.activeCommand = some p) :
    (press t c now).events = [.released p, .pressed c] := by
  simp [press, releaseHeld, h]

@[simp] theorem refresh_events (t : ButtonTrackerState) (now : Time) : (refresh t now).events = [] := rfl
@[simp] theorem refresh_activeCommand (t : ButtonTrackerState) (now : Time) :
    (refresh t now).tracker.activeCommand = t.activeCommand := rfl
@[simp] theorem refresh_lastCommand (t : ButtonTrackerState) (now : Time) :
    (refresh t now).tracker.lastCommand = t.lastCommand := rfl
@[simp] theorem refresh_hasUnseenPress (t : ButtonTrackerState) (now : Time) :
    (refresh t now).tracker.hasUnseenPress = t.hasUnseenPress := rfl
@[simp] theorem refresh_repeatDeadline (t : ButtonTrackerState) (now : Time) :
    (refresh t now).tracker.repeatDeadline = deadlineFrom now := rfl
@[simp] theorem press_activeCommand (t : ButtonTrackerState) (c : Byte) (now : Time) :
    (press t c now).tracker.activeCommand = some c := rfl
@[simp] theorem press_lastCommand (t : ButtonTrackerState) (c : Byte) (now : Time) :
    (press t c now).tracker.lastCommand = some c := rfl
@[simp] theorem press_hasUnseenPress (t : ButtonTrackerState) (c : Byte) (now : Time) :
    (press t c now).tracker.hasUnseenPress = true := rfl
@[simp] theorem press_repeatDeadline (t : ButtonTrackerState) (c : Byte) (now : Time) :
    (press t c now).tracker.repeatDeadline = deadlineFrom now := rfl

end Sys2Proof.Machine
end

