-- ==== Sys2Proof/Laws/PerInstr.lean ====
section
/-!
SUPPORT. The per-instruction families. EncodingIsLegal: the fields a transaction is written with pass the checks of
WellFormed.lean, and reading the word back gives those fields.
-/

namespace Sys2Proof.Laws.EncodingIsLegal

/-- spec 44 R160: what the encoder writes is a legal transaction. -/
def Statement (i : Instr) : Prop :=
  (encodeFields i).legal = true ∧ splitWord (encode i) = encodeFields i

theorem nop (now : Time) : Statement (.nop now) := ⟨rfl, splitWord_joinWord _⟩
theorem connect (now : Time) : Statement (.connect now) := ⟨rfl, splitWord_joinWord _⟩
theorem pulse (mark space : Duration) (now : Time) : Statement (.pulse mark space now) :=
  ⟨rfl, splitWord_joinWord _⟩
theorem tick (now : Time) : Statement (.tick now) := ⟨rfl, splitWord_joinWord _⟩
theorem poll (now : Time) : Statement (.poll now) := ⟨rfl, splitWord_joinWord _⟩
theorem current (now : Time) : Statement (.current now) := ⟨rfl, splitWord_joinWord _⟩
theorem isPressed (code : Byte) (now : Time) : Statement (.isPressed code now) := by
  refine ⟨?_, splitWord_joinWord _⟩
  have h : (0#24 ++ code : BitVec 32).extractLsb' 8 24 = 0#24 := by
    ext i hi
    simp only [BitVec.getElem_extractLsb', BitVec.getLsbD_append]
    grind
  simp [encodeFields, TxnFields.legal, TxnFields.takesNoOperand, h]

end Sys2Proof.Laws.EncodingIsLegal
end

