-- ==== Sys2Proof/Tests/Slice0.lean ====
section
/-!
SUPPORT. The model's own tests: the checks of WellFormed.lean, words written out from spec 30 R70 and R71, one step at a
time against the vectors of spec 95, and for every statement with hypotheses a concrete state and operands that meet
them (`witness_<statement>`, clause by clause, at the ends of the ranges). Expected values are the spec's.
-/

namespace Sys2Proof.Tests

open Sys2Proof.Machine

/-! Small states. -/

/-- The next state of an outcome. -/
def nextOf : Host.Outcome State Fault Refusal → Option State
  | .next t => some t
  | .fault _ => none
  | .refused _ => none

/-- A connected block with nothing presented and nothing answered. -/
def on (d : DecoderState) (t : ButtonTrackerState) : State :=
  { connected := true, decoder := d, tracker := t, pending := [], responses := [] }

/-- In a frame, after `n` bits. -/
def inFrame (n : BitVec 6) (c i : Byte) : DecoderState :=
  { phase := .accumulatingBits, bitsReceived := n, commandBits := c, inverseCommandBits := i }

/-- Holding `c`. -/
def holding (c : Byte) (d : Deadline) (unseen : Bool) : ButtonTrackerState :=
  { activeCommand := some c, repeatDeadline := d, lastCommand := some c, hasUnseenPress := unseen }

/-- `Idle` after a press of `c`. -/
def released (c : Byte) (d : Deadline) (unseen : Bool) : ButtonTrackerState :=
  { activeCommand := none, repeatDeadline := d, lastCommand := some c, hasUnseenPress := unseen }

/-- One bit short of a protocol-correct frame of 0x62, resp. 0x22 (spec 95 A16, section 5). -/
def almost62 : DecoderState := inFrame 31#6 0x62#8 0x4E#8
def almost22 : DecoderState := inFrame 31#6 0x22#8 0x6E#8

/-- Two bytes outside the allow-list, whatever it is. -/
def unknownA : Byte := Config.knownOrder 17#8
def unknownB : Byte := Config.knownOrder 18#8

theorem not_known_of_index (k : Nat) (h : 17 ≤ k) (h' : k < 256) :
    Config.knownOrder (BitVec.ofNat 8 k) ∉ Config.known := by
  intro hm
  obtain ⟨j, hj, e⟩ := List.mem_map.1 hm
  have e' := congrArg BitVec.toNat (Config.knownOrder.injective e)
  have hj' : j < 17 := List.mem_range.1 hj
  rw [BitVec.toNat_ofNat, BitVec.toNat_ofNat] at e'
  omega

theorem unknownA_ne_unknownB : unknownA ≠ unknownB := fun h => by
  have := Config.knownOrder.injective h
  revert this
  decide

/-! ## WellFormed: each check refuses an ill-formed term -/

theorem smoke_reservedOpcode : TxnFields.legal { op := 7#4, now := 0#32, a := 0#32, b := 0#32 } = false := by decide
theorem smoke_nonZeroA : TxnFields.legal { op := 1#4, now := 0#32, a := 1#32, b := 0#32 } = false := by decide
theorem smoke_nonZeroB : TxnFields.legal { op := 4#4, now := 0#32, a := 0#32, b := 1#32 } = false := by decide
theorem smoke_isPressedNonZeroA : TxnFields.legal { op := 6#4, now := 0#32, a := 1#32, b := 0x62#32 } = false := by
  decide
theorem smoke_isPressedWideCode : TxnFields.legal { op := 6#4, now := 0#32, a := 0#32, b := 0x162#32 } = false := by
  decide
theorem smoke_shortGap : Pseudo.wf (.gap 13939#32 0#32) = false ∧ Pseudo.wf (.gap 13940#32 0#32) = true := by decide

/-! ## Decoding: words written out from spec 30 R70, R71 -/

/-- `TXN[99:96] = op`, `TXN[95:64] = now`, `TXN[63:32] = a`, `TXN[31:0] = b`, one hexadecimal digit for
each four bits. -/
theorem decode_nop : decode 0x0FFFFFFFF0000000000000000#100 = .instr (.nop 4294967295#32) := by decide
theorem decode_connect : decode 0x1000000070000000000000000#100 = .instr (.connect 7#32) := by decide
/-- spec 30 R70's fields, each with a value of its own -/
theorem decode_pulse : decode 0x2DEADBEEF1234567889ABCDEF#100 =
    .instr (.pulse 0x12345678#32 0x89ABCDEF#32 0xDEADBEEF#32) := by decide
theorem decode_tick : decode 0x3000006550000000000000000#100 = .instr (.tick 1621#32) := by decide
theorem decode_poll : decode 0x4000000010000000000000000#100 = .instr (.poll 1#32) := by decide
theorem decode_current : decode 0x5000000020000000000000000#100 = .instr (.current 2#32) := by decide
theorem decode_isPressed : decode 0x60000000300000000000000FE#100 = .instr (.isPressed 0xFE#8 3#32) := by decide

/-- spec 95 I1, I2, I4, I5, I9, I10, I11 -/
theorem decode_illegal :
    decode 0x7000000000000000000000000#100 = .reject (.reservedOpcode 7#4) ∧
    decode 0xF000000000000000000000000#100 = .reject (.reservedOpcode 15#4) ∧
    decode 0x0000000000000000000000001#100 = .reject .nonZeroB ∧
    decode 0x1000000000000000100000000#100 = .reject .nonZeroA ∧
    decode 0x5000000008000000000000000#100 = .reject .nonZeroA ∧
    decode 0x6000000000000000000000162#100 = .reject .nonZeroB ∧
    decode 0x6000000000000000100000062#100 = .reject .nonZeroA := by decide

/-- The same word through the table's bit numbers, and as the first transaction after reset (log 3, log 10). -/
theorem test_withFetchWord :
    decodeTableWord 100 0x1000000000000000000000000 = some (.connect 0#32) ∧
    decodeTableWord 104 0x7000000000000000000000000 = none ∧
    nextOf (step (State.reset.withFetchWord 100 0x1000000000000000000000000)) =
      some { State.reset with connected := true, responses := [0x00000000#32] } := by decide

/-! ## One step at a time: the vectors of spec 95 -/

/-- spec 95 O2 -/
theorem test_nop : nextOf (exec (.nop 4294967295#32) (on .initial (holding 0x62#8 1120#33 true))) =
    some { on .initial (holding 0x62#8 1120#33 true) with responses := [0x00000000#32] } := by decide
/-- spec 95 O4 -/
theorem test_connect_again : nextOf (exec (.connect 0#32) (on (inFrame 5#6 0#8 0#8) (holding 0x62#8 1120#33 true))) =
    some { on (inFrame 5#6 0#8 0#8) (holding 0x62#8 1120#33 true) with responses := [0x00000000#32] } := by decide
/-- spec 95 T4: `Released(0x62)` then `Pressed(0x22)` in one response -/
theorem test_pulse_displaces :
    nextOf (exec (.pulse 560#32 1690#32 1108#32) (on almost22 (holding 0x62#8 1120#33 true))) =
    some { on .initial (holding 0x22#8 1228#33 true) with responses := [0x000D8A22#32] } := by decide
/-- spec 95 A11: 0x31 shifted left with a 0 is 0x62 -/
theorem test_pulse_shifts : nextOf (exec (.pulse 560#32 560#32 0#32) (on (inFrame 23#6 0x31#8 0#8) .initial)) =
    some { on (inFrame 24#6 0x62#8 0#8) .initial with responses := [0x00000000#32] } := by decide
/-- spec 95 T18, T19: strict at the deadline -/
theorem test_tick_strict :
    nextOf (exec (.tick 1120#32) (on .initial (holding 0x62#8 1120#33 true))) =
      some { on .initial (holding 0x62#8 1120#33 true) with responses := [0x00000000#32] } ∧
    nextOf (exec (.tick 1121#32) (on .initial (holding 0x62#8 1120#33 true))) =
      some { on .initial (released 0x62#8 1120#33 true) with responses := [0x000D8800#32] } := by decide
/-- spec 95 T20: a deadline beyond any 32-bit clock value -/
theorem test_tick_wideDeadline :
    nextOf (exec (.tick 4294967295#32) (on .initial (holding 0x62#8 4294967415#33 false))) =
      some { on .initial (holding 0x62#8 4294967415#33 false) with responses := [0x00000000#32] } := by decide
/-- spec 95 O11, O12: the latch outlives the release, and is read once -/
theorem test_poll :
    nextOf (exec (.poll 0#32) (on .initial (released 0x62#8 1120#33 true))) =
      some { on .initial (released 0x62#8 1120#33 false) with responses := [0x00100000#32] } ∧
    nextOf (exec (.poll 0#32) (on .initial (released 0x62#8 1120#33 false))) =
      some { on .initial (released 0x62#8 1120#33 false) with responses := [0x00000000#32] } := by decide
/-- spec 95 O14, O15: the last command after release; the command 0x00 differs from none -/
theorem test_current :
    nextOf (exec (.current 0#32) (on .initial (released 0x62#8 1120#33 false))) =
      some { on .initial (released 0x62#8 1120#33 false) with responses := [0x16200000#32] } ∧
    nextOf (exec (.current 0#32) (on .initial (holding 0x00#8 1120#33 false))) =
      some { on .initial (holding 0x00#8 1120#33 false) with responses := [0x10000000#32] } := by decide
/-- spec 95 O16, O18: held, not last pressed -/
theorem test_isPressed :
    nextOf (exec (.isPressed 0x62#8 0#32) (on .initial (holding 0x62#8 1120#33 true))) =
      some { on .initial (holding 0x62#8 1120#33 true) with responses := [0x00100000#32] } ∧
    nextOf (exec (.isPressed 0x62#8 0#32) (on .initial (released 0x62#8 1120#33 false))) =
      some { on .initial (released 0x62#8 1120#33 false) with responses := [0x00000000#32] } := by decide

/-- spec 95 V1, V6, V10, V14, with an allow-list of the stated membership -/
theorem test_validate :
    validate 0x62#8 0x9D#8 [] = some 0x62#8 ∧ validate 0x62#8 0x9C#8 [0x62#8] = some 0x62#8 ∧
    validate 0x63#8 0x9D#8 [0x62#8] = some 0x62#8 ∧ validate 0x47#8 0xB9#8 [0x62#8] = none := by decide

/-- spec 30 R83, R84: lines of a script, and the transactions they stand for -/
theorem test_script :
    scriptTransactions ["NOP ; a comment".toList, "PULSE 0x2328, 4500 @1000".toList, "ISPRESSED 0x62".toList,
      "".toList, "REPEAT @7".toList] =
      some [.nop 0#32, .pulse 9000#32 4500#32 1000#32, .isPressed 0x62#8 0#32, .pulse 9000#32 2250#32 7#32] ∧
    scriptTransactions ["TICK".toList] = none ∧ scriptTransactions ["GAP 13939 @0".toList] = none ∧
    scriptTransactions ["ISPRESSED 256".toList] = none := by decide

/-- spec 30 R84, with the word spec 95 section 2 gives for `BIT1 @1000`: the first pulse of `BYTE 0x80` is a 1 -/
theorem test_byte_order : ((expandPseudo (.byte 0x80#8 1000#32)).map encode).head? =
    some 0x2000003E8000002300000069A#100 := by decide

/-! ## Hypotheses that can be met -/

theorem witness_EncodeOfDecodeIsSame :
    decode 0x6000000000000000000000062#100 = .instr (.isPressed 0x62#8 0#32) := by decide

theorem witness_DecoderAcceptsExactlyLegalWords :
    decode 0x60000000000000000000000FF#100 = .instr (.isPressed 0xFF#8 0#32) ∧
    decode 0x6000000000000000000000100#100 = .reject .nonZeroB := by decide

theorem witness_OnlyTheStampMayBeAnything :
    (0#4 ∈ [0#4, 1#4, 3#4, 4#4, 5#4] ∧ (1#32 ≠ 0#32 ∨ 0#32 ≠ 0#32)) ∧
    (5#4 ∈ [0#4, 1#4, 3#4, 4#4, 5#4] ∧ (0#32 ≠ 0#32 ∨ 1#32 ≠ 0#32)) ∧
    ((6#4 : BitVec 4) = 6#4 ∧ (0#32 ≠ 0#32 ∨ (0x100#32).extractLsb' 8 24 ≠ 0#24)) ∧
    ((4#4 : BitVec 4) ≠ 2#4 ∧ (4#4 : BitVec 4) ≠ 3#4) := by decide

theorem witness_StepRunsTheDecodedTransaction :
    (State.reset.present [0x1000000000000000000000000#100]).pending = 0x1000000000000000000000000#100 :: [] ∧
    decode 0x1000000000000000000000000#100 = .instr (.connect 0#32) := by decide

theorem witness_StepWaitsWithoutATransaction : State.reset.pending = [] := by decide

theorem witness_IllegalWordIsAnsweredAndForgotten :
    ((State.reset.present [0x7000000000000000000000000#100]).pending = 0x7000000000000000000000000#100 :: [] ∧
      legalWord 0x7000000000000000000000000#100 = false) ∧
    ((State.reset.present [0x6000000000000000000000062#100]).pending = 0x6000000000000000000000062#100 :: [] ∧
      legalWord 0x6000000000000000000000062#100 = true) := by decide

theorem witness_ConnectSetsConnectedForGood :
    (on .initial .initial).connected = true ∧ ∃ t, exec (.tick 5#32) (on .initial .initial) = .next t :=
  ⟨rfl, _, rfl⟩

theorem witness_IsPressedComparesTheActiveCommand :
    (on .initial (holding 0x62#8 0#33 true)).tracker.activeCommand = some 0x62#8 ∧
    (on .initial (holding 0x62#8 0#33 true)).tracker.activeCommand ≠ some 0x22#8 ∧
    (on .initial .initial).tracker.activeCommand ≠ some 0x00#8 := by decide

theorem witness_DisconnectedPulseAndTickDoNothing : State.reset.connected = false := by decide

theorem witness_TickReleasesOnlyPastTheDeadline :
    let s := on .initial (holding 0x62#8 1120#33 true)
    (s.connected = true ∧ s.tracker.activeCommand = some 0x62#8 ∧ s.tracker.repeatDeadline.toNat < (1121#32).toNat) ∧
    (1120#32).toNat ≤ s.tracker.repeatDeadline.toNat ∧
    State.reset.connected = false ∧ (on .initial .initial).tracker.activeCommand = none := by decide

theorem witness_NoiseWhileAwaitingChangesNothing :
    let s := on .initial .initial
    (s.connected = true ∧ s.decoder.phase = .awaitingStartOrRepeat) ∧
    (9000#32).toNat + (999#32).toNat = 9999 ∧ (9000#32).toNat + (5500#32).toNat = 14500 ∧ 9999 < 10000 ∧
    14500 ≤ (4294967295#32).toNat + (4294967295#32).toNat := by decide

theorem witness_RepeatSignalRefreshesOnlyWhileHolding :
    let s := on .initial (holding 0x62#8 1120#33 true)
    let s' := on .initial .initial
    (s.connected = true ∧ s.decoder.phase = .awaitingStartOrRepeat ∧ s.tracker.activeCommand ≠ none ∧
      10000 ≤ (9000#32).toNat + (1000#32).toNat ∧ (9000#32).toNat + (1000#32).toNat < 12500) ∧
    (s'.connected = true ∧ s'.decoder.phase = .awaitingStartOrRepeat ∧ s'.tracker.activeCommand = none ∧
      10000 ≤ (9000#32).toNat + (3499#32).toNat ∧ (9000#32).toNat + (3499#32).toNat < 12500) := by decide

theorem witness_StartPulseOpensAFrame :
    let s := on .initial .initial
    (s.connected = true ∧ s.decoder.phase = .awaitingStartOrRepeat) ∧
    (12500 ≤ (9000#32).toNat + (3500#32).toNat ∧ (9000#32).toNat + (3500#32).toNat < 14500) ∧
    (12500 ≤ (9000#32).toNat + (5499#32).toNat ∧ (9000#32).toNat + (5499#32).toNat < 14500) := by decide

theorem witness_AddressBitsAreCountedAndDropped :
    let first := on (inFrame 0#6 0#8 0#8) .initial
    let last := on (inFrame 15#6 0#8 0#8) .initial
    (first.connected = true ∧ first.decoder.phase = .accumulatingBits ∧ (0#32).toNat + (0#32).toNat < 2700 ∧
      first.decoder.bitsReceived.toNat + 1 ≤ 16) ∧
    (last.connected = true ∧ last.decoder.phase = .accumulatingBits ∧ (1350#32).toNat + (1349#32).toNat < 2700 ∧
      last.decoder.bitsReceived.toNat + 1 ≤ 16) := by decide

theorem witness_CommandBitsAreShiftedIn :
    let first := on (inFrame 16#6 0#8 0#8) .initial
    let last := on (inFrame 23#6 0x31#8 0#8) .initial
    (first.connected = true ∧ first.decoder.phase = .accumulatingBits ∧ (1599#32).toNat + (0#32).toNat < 2700 ∧
      17 ≤ first.decoder.bitsReceived.toNat + 1 ∧ first.decoder.bitsReceived.toNat + 1 ≤ 24) ∧
    (last.connected = true ∧ last.decoder.phase = .accumulatingBits ∧ (0#32).toNat + (1600#32).toNat < 2700 ∧
      17 ≤ last.decoder.bitsReceived.toNat + 1 ∧ last.decoder.bitsReceived.toNat + 1 ≤ 24) := by decide

theorem witness_InverseBitsAreShiftedIn :
    let first := on (inFrame 24#6 0x62#8 0#8) .initial
    let last := on (inFrame 30#6 0x62#8 0x27#8) .initial
    (first.connected = true ∧ first.decoder.phase = .accumulatingBits ∧ (0#32).toNat + (1600#32).toNat < 2700 ∧
      25 ≤ first.decoder.bitsReceived.toNat + 1 ∧ first.decoder.bitsReceived.toNat + 1 ≤ 31) ∧
    (last.connected = true ∧ last.decoder.phase = .accumulatingBits ∧ (1599#32).toNat + (0#32).toNat < 2700 ∧
      25 ≤ last.decoder.bitsReceived.toNat + 1 ∧ last.decoder.bitsReceived.toNat + 1 ≤ 31) := by decide

/-- A frame whose two bytes disagree and are both unknown is rejected: the clause `answer = none`. The byte completed
by a 0 is `2 * 0 + 0 = 0`, so the bytes are chosen with it. -/
theorem validate_unknown : validate unknownA (~~~ unknownB) Config.known = none := by
  have hA : unknownA ∉ Config.known := not_known_of_index 17 (by decide) (by decide)
  have hB : unknownB ∉ Config.known := not_known_of_index 18 (by decide) (by decide)
  have e : (~~~ unknownB) ^^^ 0xFF#8 = unknownB := by
    generalize unknownB = b
    revert b
    decide
  simp only [validate, e, if_neg unknownA_ne_unknownB, if_neg hA, if_neg hB]

/-- The inverse accumulator and last bit that complete the inverse byte `~~~ unknownB`. -/
def unknownHalf : Byte := (~~~ unknownB) >>> 1
def unknownPulse : Duration := if (~~~ unknownB).getLsbD 0 then 1600#32 else 1599#32

theorem unknown_completes :
    BitVec.ofNat 8 (2 * unknownHalf.toNat + if unknownPulse.toNat + (0#32).toNat < 1600 then 0 else 1) =
      ~~~ unknownB := by
  unfold unknownHalf unknownPulse
  generalize ~~~ unknownB = b
  revert b
  decide

theorem unknownPulse_isBit : unknownPulse.toNat + (0#32).toNat < 2700 := by
  unfold unknownPulse
  split <;> decide

theorem witness_LastBitValidatesResetsAndPresses :
    (let s := on (inFrame 31#6 unknownA unknownHalf) (holding 0x62#8 1120#33 true);
      s.connected = true ∧ s.decoder.phase = .accumulatingBits ∧ unknownPulse.toNat + (0#32).toNat < 2700 ∧
      s.decoder.bitsReceived = 31#6 ∧
      validate s.decoder.commandBits
        (BitVec.ofNat 8 (2 * s.decoder.inverseCommandBits.toNat +
          if unknownPulse.toNat + (0#32).toNat < 1600 then 0 else 1)) Config.known = none) ∧
    (∀ t ∈ [holding 0x62#8 1120#33 true, ButtonTrackerState.initial, holding 0x22#8 1120#33 false],
      let s := on almost62 t;
      s.connected = true ∧ s.decoder.phase = .accumulatingBits ∧ (1350#32).toNat + (1349#32).toNat < 2700 ∧
      s.decoder.bitsReceived = 31#6 ∧
      validate s.decoder.commandBits
        (BitVec.ofNat 8 (2 * s.decoder.inverseCommandBits.toNat +
          if (1350#32).toNat + (1349#32).toNat < 1600 then 0 else 1)) Config.known = some 0x62#8) ∧
    (holding 0x62#8 1120#33 true).activeCommand = some 0x62#8 ∧
    ButtonTrackerState.initial.activeCommand = none ∧
    ((holding 0x22#8 1120#33 false).activeCommand = some 0x22#8 ∧ (0x22#8 : Byte) ≠ 0x62#8) := by
  refine ⟨⟨rfl, rfl, unknownPulse_isBit, rfl, ?_⟩, by decide, by decide⟩
  show validate unknownA _ _ = _
  exact (congrArg (validate unknownA · Config.known) unknown_completes).trans validate_unknown

theorem witness_DecodeFailuresTouchOnlyTheDecoder :
    (let s := on (inFrame 31#6 0x62#8 0x4E#8) (holding 0x62#8 1120#33 true);
      s.connected = true ∧ s.decoder.phase = .accumulatingBits ∧ 2700 ≤ (1350#32).toNat + (1350#32).toNat) ∧
    (let s := on (inFrame 31#6 unknownA unknownHalf) (holding 0x62#8 1120#33 true);
      let controlBits := ~~~ (BitVec.ofNat 8 (2 * s.decoder.inverseCommandBits.toNat +
        if unknownPulse.toNat + (0#32).toNat < 1600 then 0 else 1));
      s.connected = true ∧ s.decoder.phase = .accumulatingBits ∧ unknownPulse.toNat + (0#32).toNat < 2700 ∧
      s.decoder.bitsReceived = 31#6 ∧ s.decoder.commandBits ≠ controlBits ∧
      s.decoder.commandBits ∉ Config.known ∧ controlBits ∉ Config.known) := by
  refine ⟨by decide, rfl, rfl, unknownPulse_isBit, rfl, ?_, not_known_of_index 17 (by decide) (by decide), ?_⟩
  · show unknownA ≠ ~~~ (BitVec.ofNat 8 (2 * unknownHalf.toNat + _))
    rw [unknown_completes, BitVec.not_not]
    exact unknownA_ne_unknownB
  · show ~~~ (BitVec.ofNat 8 (2 * unknownHalf.toNat + _)) ∉ _
    rw [unknown_completes, BitVec.not_not]
    exact not_known_of_index 18 (by decide) (by decide)

theorem witness_PulseSeesOnlyTheSum :
    (4294967295#32).toNat + (1#32).toNat = (1#32).toNat + (4294967295#32).toNat := by decide

theorem witness_ClassifierWindowsAreClosedOpen :
    [9999, 10000, 12499, 12500, 14499, 14500].map (classify .awaitingStartOrRepeat) =
      [.noSymbol, .repeatDetected, .repeatDetected, .startDetected, .startDetected, .noSymbol] ∧
    [0, 1599, 1600, 2699, 2700, 10000].map (classify .accumulatingBits) =
      [.bit0, .bit0, .bit1, .bit1, .invalid, .invalid] := by decide

theorem witness_AssemblerDoesOneCasePerSymbol :
    DecoderState.initial.phase = .awaitingStartOrRepeat ∧
    (∀ n ∈ [0#6, 15#6, 16#6, 23#6, 24#6, 30#6, 31#6], (inFrame n 0#8 0#8).phase = .accumulatingBits) ∧
    ((15#6).toNat + 1 ≤ 16 ∧ 17 ≤ (16#6).toNat + 1 ∧ (23#6).toNat + 1 ≤ 24 ∧ 25 ≤ (24#6).toNat + 1 ∧
      (30#6).toNat + 1 ≤ 31 ∧ (31#6).toNat + 1 = 32) ∧
    validate almost62.commandBits (shl8 almost62.inverseCommandBits true) Config.known = some 0x62#8 ∧
    validate unknownA (shl8 unknownHalf ((~~~ unknownB).getLsbD 0)) Config.known = none := by
  refine ⟨rfl, by decide, by decide, by decide, ?_⟩
  have e : shl8 unknownHalf ((~~~ unknownB).getLsbD 0) = ~~~ unknownB := by
    unfold unknownHalf
    generalize ~~~ unknownB = b
    revert b
    decide
  rw [e]
  exact validate_unknown

theorem witness_ValidatorMakesTheFourTestsInOrder :
    ((0x62#8 : Byte) = ~~~ 0x9D#8) ∧
    ((0x62#8 : Byte) ≠ ~~~ 0x9C#8 ∧ 0x62#8 ∈ [0x62#8]) ∧
    ((0x63#8 : Byte) ≠ ~~~ 0x9D#8 ∧ 0x63#8 ∉ [0x62#8] ∧ ~~~ 0x9D#8 ∈ [0x62#8]) ∧
    ((0x47#8 : Byte) ≠ ~~~ 0xB9#8 ∧ 0x47#8 ∉ [0x62#8] ∧ ~~~ 0xB9#8 ∉ [0x62#8]) := by decide

theorem witness_ValidatorCornerCases :
    validate 0x63#8 0x9D#8 [0x62#8] = some 0x62#8 ∧
    ∀ b : Byte, b ∈ (List.range 256).map (BitVec.ofNat 8) := by
  refine ⟨by decide, fun b => List.mem_map.2 ⟨b.toNat, List.mem_range.2 b.isLt, ?_⟩⟩
  exact (BitVec.ofNat_toNat 8 b).trans (BitVec.setWidth_eq b)

theorem witness_KnownIsAnySetOfSeventeenBytes :
    ((List.range 17).map (BitVec.ofNat 8)).length = 17 ∧ ((List.range 17).map (BitVec.ofNat 8)).Nodup := by decide

/-- A next state exists for each transaction (the hypothesis of the statements about one of any kind). -/
theorem witness_OwnershipTableHolds :
    let s := on almost62 (holding 0x22#8 1120#33 true)
    ∀ i ∈ [Instr.nop 0#32, .connect 0#32, .pulse 560#32 1690#32 1000#32, .tick 1121#32, .poll 0#32, .current 0#32,
      .isPressed 0x62#8 0#32], (nextOf (exec i s)).isSome = true := by decide

theorem almost62_inv : DecoderInv almost62 := by
  unfold DecoderInv
  decide

theorem initial_inv : DecoderInv DecoderState.initial := by
  unfold DecoderInv
  decide

theorem witness_EventsComeOnlyFromTheirCauses :
    (∃ t, DecoderInv almost62 ∧
      exec (.pulse 560#32 1690#32 1000#32) (on almost62 (holding 0x22#8 1120#33 true)) = .next t ∧
      t.responses = [] ++ [releasedPressedRsp 0x22#8 0x62#8] ∧
      .pressed 0x62#8 ∈ responseEvents (releasedPressedRsp 0x22#8 0x62#8) ∧
      .released 0x22#8 ∈ responseEvents (releasedPressedRsp 0x22#8 0x62#8)) ∧
    (∃ t, DecoderInv DecoderState.initial ∧
      exec (.tick 1121#32) (on .initial (holding 0x22#8 1120#33 true)) = .next t ∧
      t.responses = [] ++ [releasedRsp 0x22#8] ∧ .released 0x22#8 ∈ responseEvents (releasedRsp 0x22#8)) :=
  ⟨⟨_, almost62_inv, rfl, by decide, by decide, by decide⟩, _, initial_inv, rfl, by decide, by decide⟩

theorem witness_LatchRecordsEveryPress :
    (∃ t, exec (.pulse 560#32 1690#32 1000#32) (on almost62 .initial) = .next t ∧
      t.responses = [] ++ [pressedRsp 0x62#8] ∧ t.tracker.hasUnseenPress = true) ∧
    (∃ t, exec (.poll 0#32) (on .initial (holding 0x62#8 0#33 true)) = .next t ∧
      t.responses = [] ++ [0x00100000#32] ∧ t.tracker.hasUnseenPress = false) :=
  ⟨⟨_, rfl, by decide, by decide⟩, _, rfl, by decide, by decide⟩

/-- A repeat signal, a refreshing frame and a press move the deadline; the last is a press of what was not held. -/
theorem witness_DeadlineIsWrittenOnlyByPressOrRefresh :
    (∃ t, DecoderInv DecoderState.initial ∧
      exec (.pulse 9000#32 1000#32 1100#32) (on .initial (holding 0x62#8 1120#33 true)) = .next t ∧
      t.tracker.repeatDeadline ≠ 1120#33) ∧
    (∃ t, DecoderInv almost62 ∧
      exec (.pulse 1350#32 1349#32 1100#32) (on almost62 (holding 0x62#8 1120#33 true)) = .next t ∧
      t.tracker.repeatDeadline ≠ 1120#33) ∧
    (∃ t, DecoderInv almost62 ∧ exec (.pulse 560#32 1690#32 1000#32) (on almost62 .initial) = .next t ∧
      t.tracker.repeatDeadline ≠ 0#33 ∧
      t.tracker.activeCommand = some 0x62#8 ∧ (on almost62 .initial).tracker.activeCommand ≠ some 0x62#8) :=
  ⟨⟨_, initial_inv, rfl, by decide⟩, ⟨_, almost62_inv, rfl, by decide⟩,
    _, almost62_inv, rfl, by decide, by decide, by decide⟩

theorem witness_DecoderInvariantIsKept :
    ∃ t, DecoderInv almost62 ∧
      step ((on almost62 .initial).present [0x2000003E8000002300000069A#100]) = .next t ∧
      t.decoder = DecoderState.initial :=
  ⟨_, almost62_inv, rfl, by decide⟩

/-- A block that has reported a press of 0x62 and holds it, with a `TICK` past the deadline at the port. -/
def about : State :=
  { on .initial (holding 0x62#8 1120#33 true) with
    responses := [pressedRsp 0x62#8]
    pending := [0x3000004610000000000000000#100] }

theorem witness_TrackerInvariantIsKept :
    ∃ t, TrackerInv about ∧ step about = .next t ∧ t.tracker.activeCommand = none := by
  refine ⟨_, ⟨?_, ?_, ?_⟩, rfl, by decide⟩
  · intro c h
    exact h
  · intro h
    cases h
  · intro h
    cases h

theorem witness_EventAlternationIsKept :
    ∃ t, EventsInv about ∧ step about = .next t ∧
      eventsOf t.responses = [.pressed 0x62#8, .released 0x62#8] := by
  refine ⟨_, ?_, rfl, by decide⟩
  unfold EventsInv
  decide

/-- 31 pulses at the two ends of both bit windows. -/
def anyPulses : List RawPulse :=
  (List.range 31).map fun k =>
    { mark := if k % 4 < 2 then 0#32 else 1599#32, space := if k % 2 = 0 then 0#32 else 1100#32, now := 5#32 }

theorem witness_AnyThirtyTwoBitsCompleteAFrame :
    anyPulses.length = 31 ∧
    (∀ p ∈ anyPulses ++ [({ mark := 1350#32, space := 1349#32, now := 9#32 } : RawPulse)], p.length < 2700) ∧
    (on (inFrame 0#6 0#8 0#8) .initial).connected = true ∧
    (on (inFrame 0#6 0#8 0#8) .initial).decoder =
      { phase := .accumulatingBits, bitsReceived := 0#6, commandBits := 0#8, inverseCommandBits := 0#8 } := by decide

theorem witness_FrameRoundTripPressesItsCommand :
    let s := on .initial (released 0x22#8 7#33 false)
    s.connected = true ∧ s.decoder = State.reset.decoder ∧ s.tracker.activeCommand = none := by decide

theorem witness_OnlyPulsesMatterToTheDecoder :
    (on .initial .initial).connected = true ∧
    ∃ t, runAll [.tick 1#32, startPulse 2#32, .poll 0#32, bitPulse true 3#32] (on .initial .initial) = .next t ∧
      t.decoder = inFrame 1#6 0#8 0#8 :=
  ⟨rfl, _, rfl, by decide⟩

theorem witness_IdleDeadlineIsUnobservable :
    (on .initial (released 0x62#8 1120#33 true)).tracker.activeCommand = none := by
  decide

theorem witness_TicksReleaseExactlyOnce :
    let s := on .initial (holding 0x62#8 1620#33 true)
    (s.connected = true ∧ s.tracker.activeCommand = some 0x62#8) ∧
    (∃ u ∈ [1620#32, 1621#32, 1700#32], s.tracker.repeatDeadline.toNat < u.toNat) ∧
    (∀ u ∈ [1619#32, 1620#32], u.toNat ≤ s.tracker.repeatDeadline.toNat) :=
  ⟨by decide, ⟨1621#32, by decide, by decide⟩,
    List.forall_mem_cons.2 ⟨by decide, List.forall_mem_cons.2 ⟨by decide, by simp⟩⟩⟩

theorem witness_DeadlineNeverDecreasesUnderTheClockPremise :
    (on .initial (holding 0x62#8 1120#33 true)).tracker.repeatDeadline.toNat ≤ 1000 + 120 ∧
    ClockFrom 1000 [.tick 1000#32, .poll 0#32, repeatPulse 1001#32] ∧
    ∃ t, runAll [.tick 1000#32, .poll 0#32, repeatPulse 1001#32] (on .initial (holding 0x62#8 1120#33 true)) =
      .next t ∧ t.tracker.repeatDeadline = 1121#33 := by
  refine ⟨by decide, ?_, _, rfl, by decide⟩
  simp [ClockFrom, repeatPulse]

/-- spec 95 program P6, runs A and B: the same two transactions in both orders -/
theorem witness_OrderOfTickAndFrameDecides :
    let s := on almost62 (holding 0x62#8 1120#33 false)
    s.connected = true ∧ s.decoder.phase = .accumulatingBits ∧ s.decoder.bitsReceived = 31#6 ∧
    (560#32).toNat + (1690#32).toNat < 2700 ∧
    validate s.decoder.commandBits
      (BitVec.ofNat 8 (2 * s.decoder.inverseCommandBits.toNat +
        if (560#32).toNat + (1690#32).toNat < 1600 then 0 else 1)) Config.known = some 0x62#8 ∧
    s.tracker.activeCommand = some 0x62#8 ∧ s.tracker.repeatDeadline.toNat < (1121#32).toNat := by decide

/-- No press after the `POLL` (and another `POLL`), and one press (a 32nd bit) after it. -/
theorem witness_PollAnswersTrueOncePerPress :
    (∃ t, runAll [.poll 0#32, .tick 2000#32, .poll 0#32] (on .initial (holding 0x62#8 1120#33 true)) = .next t ∧
      t.responses = [] ++ 0x00100000#32 :: [releasedRsp 0x62#8, quietRsp] ∧
      eventsOf [releasedRsp 0x62#8, quietRsp] = [.released 0x62#8]) ∧
    (∀ n, Instr.pulse 560#32 1690#32 5#32 ≠ .poll n) ∧
    (∃ t, runAll [.poll 0#32, .pulse 560#32 1690#32 5#32] (on almost62 .initial) = .next t ∧
      t.responses = [] ++ quietRsp :: [pressedRsp 0x62#8] ∧
      eventsOf [pressedRsp 0x62#8] = [.pressed 0x62#8]) :=
  ⟨⟨_, rfl, by decide, by decide⟩, (fun _ h => by cases h), _, rfl, by decide, by decide⟩

theorem witness_TailOfAnAbortedFrameIsIgnored :
    let s := on (inFrame 10#6 0#8 0#8) (holding 0x62#8 1120#33 true)
    let first : RawPulse := { mark := 1350#32, space := 1350#32, now := 5#32 }
    let tail : List RawPulse := [{ mark := 9000#32, space := 999#32, now := 6#32 }]
    s.connected = true ∧ s.decoder.phase = .accumulatingBits ∧ 2700 ≤ first.length ∧
    ∀ p ∈ tail, p.length < 10000 := by decide

end Sys2Proof.Tests
end

/-!
PROOFS. The architectural state (spec 10): what a transaction's next state is, said once for each transaction, and from
that the ownership table of R41; the reset values of R40.
-/

namespace Sys2Proof.Machine

/-! ## The next state of each transaction (spec 44 R161 to R167) -/

@[simp] theorem exec_nop (now : Time) (s : State) : exec (.nop now) s = .next (s.respondOk 0#9 []) := rfl

@[simp] theorem exec_connect (now : Time) (s : State) :
    exec (.connect now) s = .next (s.setConnected.respondOk 0#9 []) := rfl

@[simp] theorem exec_poll (now : Time) (s : State) :
    exec (.poll now) s =
      .next (({ s with tracker := s.tracker.clearUnseen } : State).respondOk (flagData s.tracker.hasUnseenPress) []) :=
  rfl

@[simp] theorem exec_current (now : Time) (s : State) :
    exec (.current now) s = .next (s.respondOk (optionByteCode s.tracker.lastCommand) []) := rfl

@[simp] theorem exec_isPressed (code : Byte) (now : Time) (s : State) :
    exec (.isPressed code now) s = .next (s.respondOk (flagData (s.tracker.holds code)) []) := rfl

/-- Both ways a `PULSE` can end: not connected, or connected with what the assembler and the tracker answer (spec 44
R160, R163). -/
theorem exec_pulse_cases {mark space : Duration} {now : Time} {s t : State}
    (h : exec (.pulse mark space now) s = .next t) :
    (s.connected = false ∧ t = s.respondOk 0#9 []) ∨
    (s.connected = true ∧ ∃ a, assemble s.decoder (classify s.decoder.phase (interval mark space)) = some a ∧
      t = ({ s with decoder := a.decoder, tracker := (track s.tracker a now).tracker } : State).respondOk 0#9
        (track s.tracker a now).events) := by
  change execPulse mark space now s = .next t at h
  unfold execPulse at h
  split at h
  case isTrue hc =>
    unfold pulseConnected at h
    split at h
    · next a ha =>
      cases h
      exact .inr ⟨hc, a, ha, rfl⟩
    · cases h
  case isFalse hc =>
    cases h
    exact .inl ⟨Bool.eq_false_of_not_eq_true hc, rfl⟩

/-- Both ways a `TICK` can end: not connected, or connected with the tracker's timeout check (spec 44 R160, R164). -/
theorem exec_tick_cases {now : Time} {s t : State} (h : exec (.tick now) s = .next t) :
    (s.connected = false ∧ t = s.respondOk 0#9 []) ∨
    (s.connected = true ∧
      t = ({ s with tracker := (onTimeout s.tracker now).tracker } : State).respondOk 0#9
        (onTimeout s.tracker now).events) := by
  change execTick now s = .next t at h
  unfold execTick at h
  split at h
  case isTrue hc =>
    cases h
    exact .inr ⟨hc, rfl⟩
  case isFalse hc =>
    cases h
    exact .inl ⟨Bool.eq_false_of_not_eq_true hc, rfl⟩

/-! ## What the tracker's two paths may write (spec 10 R27, R30) -/

/-- The edge path never takes a held command away: it leaves it or puts one in its place. -/
theorem track_activeCommand (t : ButtonTrackerState) (a : Assembled) (now : Time) :
    (track t a now).tracker.activeCommand = t.activeCommand ∨
      ∃ c, (track t a now).tracker.activeCommand = some c := by
  obtain hnone | ⟨-, hrefresh⟩ | ⟨c, -, -, hpress⟩ := track_cases t a now
  · exact .inl (by rw [hnone])
  · exact .inl (by rw [hrefresh, refresh_activeCommand])
  · exact .inr ⟨c, by rw [hpress, press_activeCommand]⟩

/-- The edge path never clears the latch. -/
theorem track_keeps_unseen (t : ButtonTrackerState) (a : Assembled) (now : Time) (h : t.hasUnseenPress = true) :
    (track t a now).tracker.hasUnseenPress = true := by
  obtain hnone | ⟨-, hrefresh⟩ | ⟨c, -, -, hpress⟩ := track_cases t a now
  · rw [hnone, h]
  · rw [hrefresh, refresh_hasUnseenPress, h]
  · rw [hpress, press_hasUnseenPress]

/-- The timeout path writes `activeCommand` alone, and only to `none`. -/
theorem onTimeout_tracker (t : ButtonTrackerState) (now : Time) :
    (onTimeout t now).tracker = t ∨ (onTimeout t now).tracker = { t with activeCommand := none } := by
  obtain ⟨hnone, -⟩ | ⟨p, -, -, hrelease⟩ := onTimeout_cases t now
  · exact .inl (by rw [hnone])
  · exact .inr (by rw [hrelease])

/-! ## The frame of each path (spec 10 R41) -/

/-- No transaction touches the presented words. -/
theorem exec_pending {i : Instr} {s t : State} (h : exec i s = .next t) : t.pending = s.pending := by
  cases i with
  | nop | connect | poll | current | isPressed => cases h; rfl
  | pulse mark space now =>
    obtain ⟨-, rfl⟩ | ⟨-, a, -, rfl⟩ := exec_pulse_cases h <;> rfl
  | tick now =>
    obtain ⟨-, rfl⟩ | ⟨-, rfl⟩ := exec_tick_cases h <;> rfl

/-- A `PULSE` leaves the control bit, and neither releases a command without a new one nor clears the latch. -/
theorem exec_pulse_frame {mark space : Duration} {now : Time} {s t : State}
    (h : exec (.pulse mark space now) s = .next t) :
    t.connected = s.connected ∧
    (t.tracker.activeCommand = s.tracker.activeCommand ∨ ∃ c, t.tracker.activeCommand = some c) ∧
    (s.tracker.hasUnseenPress = true → t.tracker.hasUnseenPress = true) := by
  obtain ⟨-, rfl⟩ | ⟨-, a, -, rfl⟩ := exec_pulse_cases h
  · exact ⟨rfl, .inl rfl, id⟩
  · exact ⟨rfl, track_activeCommand s.tracker a now, track_keeps_unseen s.tracker a now⟩

/-- A `TICK` leaves the control bit and the decoder, and writes the tracker as the timeout path does. -/
theorem exec_tick_frame {now : Time} {s t : State} (h : exec (.tick now) s = .next t) :
    t.connected = s.connected ∧ t.decoder = s.decoder ∧
    (t.tracker = s.tracker ∨ t.tracker = { s.tracker with activeCommand := none }) := by
  obtain ⟨-, rfl⟩ | ⟨-, rfl⟩ := exec_tick_cases h
  · exact ⟨rfl, rfl, .inl rfl⟩
  · exact ⟨rfl, rfl, onTimeout_tracker s.tracker now⟩

/-- Settles O39: the two paths by their frames, the application's transactions by their next states. -/
theorem ownershipTableHolds : Obligations.OwnershipTableHolds := by
  intro i s t h
  refine ⟨exec_pending h, ?_⟩
  cases i with
  | pulse mark space now => exact exec_pulse_frame h
  | tick now => exact exec_tick_frame h
  | poll now =>
    cases (exec_poll now s).symm.trans h
    exact ⟨rfl, rfl, rfl⟩
  | connect now =>
    cases (exec_connect now s).symm.trans h
    exact ⟨rfl, rfl, rfl⟩
  | current now =>
    cases (exec_current now s).symm.trans h
    exact ⟨rfl, rfl, rfl⟩
  | isPressed code now =>
    cases (exec_isPressed code now s).symm.trans h
    exact ⟨rfl, rfl, rfl⟩
  | nop now =>
    cases (exec_nop now s).symm.trans h
    exact ⟨rfl, rfl, rfl⟩

/-! ## Reset (spec 10 R40) -/

/-- Settles O14, register by register. -/
theorem resetLeavesTheSpecValues : Obligations.ResetLeavesTheSpecValues :=
  ⟨rfl, rfl, rfl, rfl, rfl, rfl, rfl, rfl, rfl⟩

end Sys2Proof.Machine

/-!
PROOFS. The encodings (spec 30): the numbers of the event, symbol and frame codes (R75, R79 to R81), what the decoder
makes of the fields of a word and of its stamp (R73), and the one response every word gets (R74).
-/

namespace Sys2Proof

/-! ## The decoder on the fields of a word (spec 30 R71, R73) -/

/-- Decoding a word is decoding the fields it was made of. -/
@[simp] theorem decode_joinWord (f : TxnFields) : decode (joinWord f) = decodeFields f := by
  rw [decode, splitWord_joinWord]

/-- The five opcodes without operands share one check of the operand fields. -/
theorem decodeFields_of_takesNoOperand {f : TxnFields} (h : f.takesNoOperand = true) :
    ∃ i, decodeFields f = withoutOperands f i := by
  obtain ⟨op, now, a, b⟩ := f
  simp only [TxnFields.takesNoOperand, Bool.or_eq_true, beq_iff_eq] at h
  obtain (((rfl | rfl) | rfl) | rfl) | rfl := h
  · exact ⟨.nop now, rfl⟩
  · exact ⟨.connect now, rfl⟩
  · exact ⟨.tick now, rfl⟩
  · exact ⟨.poll now, rfl⟩
  · exact ⟨.current now, rfl⟩

/-- An operation without operands is rejected when either operand field is not 0. -/
theorem withoutOperands_rejects {f : TxnFields} (i : Instr) (h : f.a ≠ 0#32 ∨ f.b ≠ 0#32) :
    ∃ r, withoutOperands f i = .reject r := by
  by_cases ha : f.a = 0#32
  · have hb : f.b ≠ 0#32 := h.resolve_left (not_not_intro ha)
    exact ⟨.nonZeroB, by simp [withoutOperands, ha, hb]⟩
  · exact ⟨.nonZeroA, by simp [withoutOperands, ha]⟩

/-- `ISPRESSED` is rejected when `a` or the upper 24 bits of `b` are not 0. -/
theorem decodeIsPressed_rejects {f : TxnFields} (h : f.a ≠ 0#32 ∨ f.b.extractLsb' 8 24 ≠ 0#24) :
    ∃ r, decodeIsPressed f = .reject r := by
  by_cases ha : f.a = 0#32
  · have hb : f.b.extractLsb' 8 24 ≠ 0#24 := h.resolve_left (not_not_intro ha)
    exact ⟨.nonZeroB, by simp [decodeIsPressed, ha, hb]⟩
  · exact ⟨.nonZeroA, by simp [decodeIsPressed, ha]⟩

/-! ## The stamp passes through the decoder untouched (spec 30 R73) -/

/-- The transaction with another stamp. -/
def Instr.withStamp (now : Time) : Instr → Instr
  | .nop _ => .nop now
  | .connect _ => .connect now
  | .pulse mark space _ => .pulse mark space now
  | .tick _ => .tick now
  | .poll _ => .poll now
  | .current _ => .current now
  | .isPressed code _ => .isPressed code now

/-- The decoder's answer with another stamp in its transaction; a rejection holds none. -/
def Decoded.withStamp (now : Time) : Decoded → Decoded
  | .instr i => .instr (i.withStamp now)
  | .reject r => .reject r

theorem withoutOperands_withStamp (f : TxnFields) (i : Instr) (now : Time) :
    withoutOperands { f with now := now } (i.withStamp now) = (withoutOperands f i).withStamp now := by
  simp only [withoutOperands]
  split_ifs <;> rfl

theorem decodeIsPressed_withStamp (f : TxnFields) (now : Time) :
    decodeIsPressed { f with now := now } = (decodeIsPressed f).withStamp now := by
  simp only [decodeIsPressed]
  split_ifs <;> rfl

/-- Another stamp in the word is another stamp in the transaction, and changes nothing else the decoder answers. -/
theorem decodeFields_withStamp (f : TxnFields) (now : Time) :
    decodeFields { f with now := now } = (decodeFields f).withStamp now := by
  simp only [decodeFields]
  split
  · exact withoutOperands_withStamp f (.nop f.now) now
  · exact withoutOperands_withStamp f (.connect f.now) now
  · rfl
  · exact withoutOperands_withStamp f (.tick f.now) now
  · exact withoutOperands_withStamp f (.poll f.now) now
  · exact withoutOperands_withStamp f (.current f.now) now
  · exact decodeIsPressed_withStamp f now
  · rfl

/-- What the shared operand check lets through is the transaction it was given. -/
theorem eq_of_withoutOperands {f : TxnFields} {i j : Instr} (h : withoutOperands f i = .instr j) : j = i := by
  unfold withoutOperands at h
  split_ifs at h
  exact (Decoded.instr.inj h).symm

/-- The opcode of a decoded transaction is the one its row of the table gives it. -/
theorem opcode_of_decodeFields {f : TxnFields} {i : Instr} (h : decodeFields f = .instr i) :
    f.op = (encodeFields i).op := by
  apply BitVec.eq_of_toNat_eq
  unfold decodeFields at h
  split at h
  case h_3 hop => cases h; exact hop
  case h_7 hop =>
    unfold decodeIsPressed at h
    split_ifs at h
    cases h; exact hop
  case h_8 => cases h
  all_goals
    rename_i hop
    cases eq_of_withoutOperands h
    exact hop

end Sys2Proof

namespace Sys2Proof.Machine

/-! ## Codes (spec 30 R75, R79 to R81) -/

/-- Two fields side by side, as a number: the upper one is multiplied by two to the width of the lower one. -/
theorem toNat_append_eq_add {m n : Nat} (x : BitVec m) (y : BitVec n) :
    (x ++ y).toNat = x.toNat * 2 ^ n + y.toNat := by
  rw [BitVec.toNat_append, ← Nat.shiftLeft_add_eq_or_of_lt y.isLt, Nat.shiftLeft_eq]

/-- Settles O6: kind and valid bit stand above the byte. -/
theorem eventWordsAreAsTheSpecNumbersThem : Obligations.EventWordsAreAsTheSpecNumbersThem :=
  ⟨fun c => toNat_append_eq_add 0b10#2 c, fun c => toNat_append_eq_add 0b11#2 c, eventSlot_none⟩

/-- No symbol has one of the two codes that spec 30 R79 leaves unused. -/
theorem Symbol.code_toNat_lt (y : Symbol) : y.code.toNat < 6 := by
  cases y <;> decide

/-- Settles O7: a code with a byte is its upper field above the byte, the others are constants. -/
theorem internalCodesAreAsTheSpecNumbersThem : Obligations.InternalCodesAreAsTheSpecNumbersThem := by
  refine ⟨rfl, rfl, rfl, fun y => ?_, by decide, by decide, rfl, fun b => toNat_append_eq_add 1#1 b,
    fun c => toNat_append_eq_add 1#2 c, rfl, rfl, rfl⟩
  have hlt := y.code_toNat_lt
  constructor <;> (intro h; simp [h] at hlt)

/-! ## What a word does, by what it decodes to (spec 44 R160) -/

theorem transact_of_instr {w : TxnWord} {i : Instr} (h : decode w = .instr i) (s : State) :
    transact w s = exec i s := by
  rw [transact, h]

theorem transact_of_reject {w : TxnWord} {r : Reject} (h : decode w = .reject r) (s : State) :
    transact w s = .next s.respondIllegal := by
  rw [transact, h]

/-! ## Must-be-zero fields and the stamp (spec 30 R73) -/

/-- Legality of a word is legality of the fields it was made of. -/
@[simp] theorem legalWord_joinWord (f : TxnFields) : legalWord (joinWord f) = f.legal :=
  congrArg TxnFields.legal (splitWord_joinWord f)

/-- A non-zero must-be-zero field is rejected. -/
theorem decodeFields_rejects_nonZero {f : TxnFields}
    (h : f.op ∈ [0#4, 1#4, 3#4, 4#4, 5#4] ∧ (f.a ≠ 0#32 ∨ f.b ≠ 0#32) ∨
      f.op = 6#4 ∧ (f.a ≠ 0#32 ∨ f.b.extractLsb' 8 24 ≠ 0#24)) :
    ∃ r, decodeFields f = .reject r := by
  obtain ⟨hop, hab⟩ | ⟨hop, hab⟩ := h
  · have hno : f.takesNoOperand = true := by
      simpa [TxnFields.takesNoOperand, or_assoc] using hop
    obtain ⟨i, hi⟩ := decodeFields_of_takesNoOperand hno
    rw [hi]
    exact withoutOperands_rejects i hab
  · have hdec : decodeFields f = decodeIsPressed f := by simp [decodeFields, hop]
    rw [hdec]
    exact decodeIsPressed_rejects hab

/-- Only `PULSE` and `TICK` read the stamp. -/
theorem exec_withStamp {i : Instr} (hpulse : (encodeFields i).op ≠ 2#4) (htick : (encodeFields i).op ≠ 3#4)
    (now : Time) (s : State) : exec (i.withStamp now) s = exec i s := by
  cases i with
  | pulse => exact absurd rfl hpulse
  | tick => exact absurd rfl htick
  | nop | connect | poll | current | isPressed => rfl

/-- A word whose opcode is neither `PULSE`'s nor `TICK`'s does the same whatever its stamp. -/
theorem transact_withStamp {f : TxnFields} (hpulse : f.op ≠ 2#4) (htick : f.op ≠ 3#4) (now : Time) (s : State) :
    transact (joinWord { f with now := now }) s = transact (joinWord f) s := by
  have hstamp := decodeFields_withStamp f now
  rw [← decode_joinWord] at hstamp
  cases hdec : decodeFields f with
  | instr i =>
    have hop := opcode_of_decodeFields hdec
    rw [hdec] at hstamp
    rw [transact_of_instr hstamp, transact_of_instr ((decode_joinWord f).trans hdec),
      exec_withStamp (hop ▸ hpulse) (hop ▸ htick)]
  | reject r =>
    rw [hdec] at hstamp
    rw [transact_of_reject hstamp, transact_of_reject ((decode_joinWord f).trans hdec)]

/-- Settles O5, on the fields: the decoder rejects the non-zero fields, and passes the stamp through to operations that
do not read it. -/
theorem onlyTheStampMayBeAnything : Obligations.OnlyTheStampMayBeAnything := by
  refine ⟨fun op now a b s h => ?_, fun op now now' a b => ?_, fun op now now' a b s hpulse htick => ?_⟩
  · obtain ⟨r, hr⟩ := decodeFields_rejects_nonZero (f := ⟨op, now, a, b⟩) h
    exact transact_of_reject ((decode_joinWord _).trans hr) s
  · calc legalWord (joinWord ⟨op, now, a, b⟩)
      _ = TxnFields.legal ⟨op, now, a, b⟩ := legalWord_joinWord _
      _ = TxnFields.legal ⟨op, now', a, b⟩ := rfl
      _ = legalWord (joinWord ⟨op, now', a, b⟩) := (legalWord_joinWord _).symm
  · exact transact_withStamp (f := ⟨op, now', a, b⟩) hpulse htick now s

/-! ## The layout of a response (spec 30 R74) -/

/-- The fields of an `OK` response, as numbers. -/
theorem okResponse_toNat (d : ReadData) (es : List Event) :
    (okResponse d es).toNat =
      d.toNat * 2 ^ 20 + (eventSlot es[0]?).toNat * 2 ^ 10 + (eventSlot es[1]?).toNat := by
  simp only [okResponse, toNat_append_eq_add, BitVec.toNat_ofNat]
  omega

/-- The two bits under the status are 0. -/
@[simp] theorem okResponse_zeroBits (d : ReadData) (es : List Event) : (okResponse d es).extractLsb' 29 2 = 0#2 := by
  have h := okResponse_toNat d es
  have hd := d.isLt
  have h0 := (eventSlot es[0]?).isLt
  have h1 := (eventSlot es[1]?).isLt
  apply BitVec.eq_of_toNat_eq
  simp only [BitVec.extractLsb'_toNat, Nat.shiftRight_eq_div_pow, BitVec.toNat_ofNat]
  omega

/-- The valid bit of a slot says whether it holds an event (spec 30 R75). -/
theorem eventSlot_valid (e : Option Event) : (eventSlot e).getLsbD 9 = e.isSome := by
  cases e with
  | none => rfl
  | some e =>
    cases e with
    | pressed c => exact eventWord_high 0b10#2 c 1
    | released c => exact eventWord_high 0b11#2 c 1

/-- The valid bit of the first slot. -/
theorem okResponse_firstValid (d : ReadData) (es : List Event) :
    (okResponse d es).getLsbD 19 = es[0]?.isSome := by
  rw [← eventSlot_valid, ← okResponse_first d es, BitVec.getLsbD_extractLsb']
  rfl

/-- The valid bit of the second slot. -/
theorem okResponse_secondValid (d : ReadData) (es : List Event) :
    (okResponse d es).getLsbD 9 = es[1]?.isSome := by
  rw [← eventSlot_valid, ← okResponse_second d es, BitVec.getLsbD_extractLsb']
  rfl

/-- The form of a response word: two zero bits, slots filled from the first on and 0 where no event is, and 0 beside
the status of an `ILLEGAL` one (spec 30 R74). -/
def RspForm (r : RspWord) : Prop :=
  r.extractLsb' 29 2 = 0#2 ∧
  (r.getLsbD 9 = true → r.getLsbD 19 = true) ∧
  (r.getLsbD 19 = false → r.extractLsb' 10 10 = 0#10) ∧
  (r.getLsbD 9 = false → r.extractLsb' 0 10 = 0#10) ∧
  (r.getLsbD 31 = true → r = 0x80000000#32)

theorem rspForm_okResponse (d : ReadData) (es : List Event) : RspForm (okResponse d es) := by
  refine ⟨okResponse_zeroBits d es, fun hsecond => ?_, fun hfirst => ?_, fun hsecond => ?_, fun hillegal => ?_⟩
  · rw [okResponse_secondValid] at hsecond
    have hlen : 1 < es.length := by simpa using hsecond
    rw [okResponse_firstValid, List.getElem?_eq_getElem (Nat.zero_lt_of_lt hlen), Option.isSome_some]
  · rw [okResponse_firstValid, Option.isSome_eq_false_iff, Option.isNone_iff_eq_none] at hfirst
    rw [okResponse_first, hfirst, eventSlot_none]
  · rw [okResponse_secondValid, Option.isSome_eq_false_iff, Option.isNone_iff_eq_none] at hsecond
    rw [okResponse_second, hsecond, eventSlot_none]
  · have hok := responseIllegal_okResponse d es
    exact absurd (hillegal.symm.trans hok) (by decide)

theorem rspForm_illegalResponse : RspForm illegalResponse := by
  unfold RspForm
  decide

/-! ## Every word is answered once (spec 30 R74, spec 60 R190) -/

/-- The classifier's symbol never contradicts the phase it was classified in (spec 41 R120). -/
theorem assemble_classify_eq_some (d : DecoderState) (x : Nat) : ∃ a, assemble d (classify d.phase x) = some a := by
  cases hphase : d.phase with
  | awaitingStartOrRepeat =>
    obtain ⟨hy, -⟩ | ⟨hy, -⟩ | ⟨hy, -⟩ := classify_awaiting_cases x <;> simp [hy, assemble, hphase]
  | accumulatingBits =>
    obtain ⟨hy, -⟩ | ⟨hy, -⟩ | ⟨hy, -⟩ := classify_accumulating_cases x <;> simp [hy, assemble, hphase]

/-- Every transaction completes, in every state. -/
theorem exec_completes (i : Instr) (s : State) : ∃ t, exec i s = .next t := by
  cases i with
  | nop | connect | poll | current | isPressed => exact ⟨_, rfl⟩
  | tick now =>
    change ∃ t, execTick now s = .next t
    unfold execTick
    split_ifs <;> exact ⟨_, rfl⟩
  | pulse mark space now =>
    change ∃ t, execPulse mark space now s = .next t
    unfold execPulse
    split_ifs
    · obtain ⟨a, ha⟩ := assemble_classify_eq_some s.decoder (interval mark space)
      rw [pulseConnected, ha]
      exact ⟨_, rfl⟩
    · exact ⟨_, rfl⟩

/-- A completed transaction has given exactly one response, an `OK` one. -/
theorem exec_responses {i : Instr} {s t : State} (h : exec i s = .next t) :
    ∃ d es, t.responses = s.responses ++ [okResponse d es] := by
  cases i with
  | nop | connect | poll | current | isPressed => cases h; exact ⟨_, _, rfl⟩
  | pulse mark space now =>
    obtain ⟨-, rfl⟩ | ⟨-, a, -, rfl⟩ := exec_pulse_cases h <;> exact ⟨_, _, rfl⟩
  | tick now =>
    obtain ⟨-, rfl⟩ | ⟨-, rfl⟩ := exec_tick_cases h <;> exact ⟨_, _, rfl⟩

/-- Every word, legal or not, gets exactly one response, and it has the form of R74. -/
theorem transact_responds (w : TxnWord) (s : State) :
    ∃ t r, transact w s = .next t ∧ t.responses = s.responses ++ [r] ∧ RspForm r := by
  cases hdec : decode w with
  | instr i =>
    obtain ⟨t, ht⟩ := exec_completes i s
    obtain ⟨d, es, hresp⟩ := exec_responses ht
    exact ⟨t, okResponse d es, (transact_of_instr hdec s).trans ht, hresp, rspForm_okResponse d es⟩
  | reject r => exact ⟨_, _, transact_of_reject hdec s, State.respondIllegal_responses s, rspForm_illegalResponse⟩

/-- Settles O12: the layout field by field, and the one response of every word. -/
theorem everyTransactionGivesOneResponse : Obligations.EveryTransactionGivesOneResponse :=
  ⟨okResponse_toNat, transact_responds⟩

end Sys2Proof.Machine

/-!
PROOFS. The Pulse Classifier (spec 40): its windows as equivalences (R101 to R103), and that a `PULSE` reads its two
durations through their sum alone (R104).
-/

namespace Sys2Proof.Machine

/-! ## The windows (spec 40 R101 to R103) -/

/-- The windows of a phase are disjoint, so the one that `x` lies in settles the equivalences of all three. -/
theorem classify_awaiting_iff (x : Nat) :
    (classify .awaitingStartOrRepeat x = .noSymbol ↔ x < 10000 ∨ 14500 ≤ x) ∧
    (classify .awaitingStartOrRepeat x = .repeatDetected ↔ 10000 ≤ x ∧ x < 12500) ∧
    (classify .awaitingStartOrRepeat x = .startDetected ↔ 12500 ≤ x ∧ x < 14500) := by
  obtain ⟨hy, hx⟩ | ⟨hy, hx⟩ | ⟨hy, hx⟩ := classify_awaiting_cases x <;> rw [hy]
  · exact ⟨iff_of_true rfl hx, iff_of_false nofun (by omega), iff_of_false nofun (by omega)⟩
  · exact ⟨iff_of_false nofun (by omega), iff_of_true rfl hx, iff_of_false nofun (by omega)⟩
  · exact ⟨iff_of_false nofun (by omega), iff_of_false nofun (by omega), iff_of_true rfl hx⟩

theorem classify_accumulating_iff (x : Nat) :
    (classify .accumulatingBits x = .bit0 ↔ x < 1600) ∧
    (classify .accumulatingBits x = .bit1 ↔ 1600 ≤ x ∧ x < 2700) ∧
    (classify .accumulatingBits x = .invalid ↔ 2700 ≤ x) := by
  obtain ⟨hy, hx⟩ | ⟨hy, hx⟩ | ⟨hy, hx⟩ := classify_accumulating_cases x <;> rw [hy]
  · exact ⟨iff_of_true rfl hx, iff_of_false nofun (by omega), iff_of_false nofun (by omega)⟩
  · exact ⟨iff_of_false nofun (by omega), iff_of_true rfl hx, iff_of_false nofun (by omega)⟩
  · exact ⟨iff_of_false nofun (by omega), iff_of_false nofun (by omega), iff_of_true rfl hx⟩

/-- Settles O31, phase by phase. -/
theorem classifierWindowsAreClosedOpen : Obligations.ClassifierWindowsAreClosedOpen :=
  ⟨classify_awaiting_iff, classify_accumulating_iff⟩

/-! ## Only the sum is seen (spec 40 R104) -/

/-- A `PULSE` uses its durations for the classifier's interval and for nothing else. -/
theorem exec_pulse_congr_interval {mark space mark' space' : Duration}
    (h : interval mark space = interval mark' space') (now : Time) (s : State) :
    exec (.pulse mark space now) s = exec (.pulse mark' space' now) s := by
  change execPulse mark space now s = execPulse mark' space' now s
  rw [execPulse, execPulse, pulseConnected, pulseConnected, h]

/-- Settles O30: the interval is the sum by definition, and the example's sum lies in the start window. -/
theorem pulseSeesOnlyTheSum : Obligations.PulseSeesOnlyTheSum := by
  refine ⟨fun _ _ => rfl, fun _ _ _ _ now s hsum => exec_pulse_congr_interval hsum now s, ?_⟩
  obtain ⟨-, -, hstart⟩ := classify_awaiting_iff (interval 100#32 13400#32)
  exact hstart.2 (by decide)

end Sys2Proof.Machine

/-!
PROOFS. The Frame Assembler (spec 41): its answer to each symbol of its phase (R111 to R118), the shift as a formula on
naturals (R119), and the symbols it refuses (R120).
-/

namespace Sys2Proof.Machine

/-! ## The shift (spec 41 R119) -/

/-- Settles O34: the bit entered at the vacated place 0 is the sum `2 * acc + b`, and the mask is its value modulo
256. -/
theorem shiftIsTheSpecsFormula : Obligations.ShiftIsTheSpecsFormula := by
  intro acc b
  calc (shl8 acc b).toNat
    _ = (2 * acc.toNat + b.toNat) % 2 ^ 8 := by rw [shl8_eq_ofNat, BitVec.toNat_ofNat]
    _ = (acc.toNat <<< 1 + b.toNat) % 2 ^ 8 := by rw [Nat.shiftLeft_eq, Nat.pow_one, Nat.mul_comm]
    _ = (acc.toNat <<< 1 ||| b.toNat) % 2 ^ 8 := by rw [Nat.shiftLeft_add_eq_or_of_lt b.toNat_lt]
    _ = (acc.toNat <<< 1 ||| b.toNat) &&& 0xFF := (Nat.and_two_pow_sub_one_eq_mod _ 8).symm

/-! ## The answer to each symbol (spec 41 R111 to R118) -/

/-- Either bit symbol, while accumulating, is the assembly of its bit (spec 41 R114 to R117). -/
theorem assemble_bitSymbol {d : DecoderState} (h : d.phase = .accumulatingBits) (b : Bool) :
    assemble d (if b then .bit1 else .bit0) = some (assembleBit d b) := by
  cases b <;> simp [assemble, h]

/-- An out-of-window pulse, while accumulating, aborts the frame (spec 41 R118). -/
theorem assemble_invalid {d : DecoderState} (h : d.phase = .accumulatingBits) :
    assemble d .invalid = some { decoder := .initial, result := .aborted, repeated := false } := by
  simp [assemble, h, decoderReset, DecoderState.initial]

/-- The 32nd bit leaves nothing open but its result (spec 41 R117). -/
theorem assembleBit_last_of_result {d : DecoderState} {b : Bool} {r : FrameResult}
    (hn : d.bitsReceived.toNat + 1 = 32) (hr : (assembleLastBit d b).result = r) :
    assembleBit d b = { decoder := .initial, result := r, repeated := false } := by
  rw [assembleBit_last d b hn.ge, ← hr]
  rfl

/-- Settles O32: one law of the assembler for each symbol, and for a bit symbol one for each range of its number. -/
theorem assemblerDoesOneCasePerSymbol : Obligations.AssemblerDoesOneCasePerSymbol := by
  intro d
  refine ⟨fun hawait => by simp [assemble, hawait], fun haccum => ⟨assemble_invalid haccum, fun b => ?_⟩⟩
  have hbit := assemble_bitSymbol haccum b
  refine ⟨fun hn => ?_, fun hlow hhigh => ?_, fun hlow hhigh => ?_, fun hn => ⟨fun c hc => ?_, fun hnone => ?_⟩⟩
  · exact hbit.trans (congrArg some (assembleBit_address d b hn))
  · exact hbit.trans (congrArg some (assembleBit_command d b hlow hhigh))
  · exact hbit.trans (congrArg some (assembleBit_inverse d b hlow hhigh))
  · exact hbit.trans (congrArg some (assembleBit_last_of_result hn (assembleLastBit_accepted d b c hc)))
  · exact hbit.trans (congrArg some (assembleBit_last_of_result hn (assembleLastBit_rejected d b hnone)))

/-! ## The symbols that contradict the phase (spec 41 R120) -/

theorem assemble_awaiting_eq_none_iff {d : DecoderState} (h : d.phase = .awaitingStartOrRepeat) (y : Symbol) :
    assemble d y = none ↔ y ∈ [Symbol.bit0, .bit1, .invalid] := by
  cases y <;> simp [assemble, h]

theorem assemble_accumulating_eq_none_iff {d : DecoderState} (h : d.phase = .accumulatingBits) (y : Symbol) :
    assemble d y = none ↔ y ∈ [Symbol.startDetected, .repeatDetected, .noSymbol] := by
  cases y <;> simp [assemble, h]

/-- Settles O33: the refused symbols phase by phase; the classifier's windows of a phase hold only symbols the assembler
answers in it. -/
theorem assemblerIsNeverGivenAContradictorySymbol : Obligations.AssemblerIsNeverGivenAContradictorySymbol := by
  refine ⟨fun d y => ?_, fun d x => ?_⟩
  · cases hphase : d.phase with
    | awaitingStartOrRepeat => simpa using assemble_awaiting_eq_none_iff hphase y
    | accumulatingBits => simpa using assemble_accumulating_eq_none_iff hphase y
  · obtain ⟨a, ha⟩ := assemble_classify_eq_some d x
    exact Option.ne_none_iff_exists'.2 ⟨a, ha⟩

end Sys2Proof.Machine

/-!
PROOFS. The Command Validator (spec 42): what each of its four tests decides (R131), for any allow-list.
-/

namespace Sys2Proof.Machine

/-- Step 1 of spec 42 R131: on a byte, the XOR with `0xFF` is the bitwise complement. -/
theorem xor_ff_eq_not (x : Byte) : x ^^^ 0xFF#8 = ~~~x :=
  BitVec.xor_allOnes

section

variable {command inverse : Byte} {known : List Byte}

/-- Step 2 of spec 42 R131: a frame whose bytes are complements needs no allow-list. -/
theorem validate_of_complement (hcompl : command = ~~~inverse) :
    validate command inverse known = some command := by
  rw [validate, xor_ff_eq_not, if_pos hcompl]

/-- Step 3 of spec 42 R131: a known command byte is accepted; steps 2 and 3 accept the same byte, so the outcome of
step 2 is no hypothesis. -/
theorem validate_of_mem (hcommand : command ∈ known) : validate command inverse known = some command := by
  by_cases hcompl : command = ~~~inverse
  · exact validate_of_complement hcompl
  · rw [validate, xor_ff_eq_not, if_neg hcompl, if_pos hcommand]

/-- Step 4 of spec 42 R131: past steps 2 and 3, a known complement is the byte recovered. -/
theorem validate_of_not_mem_of_mem (hcompl : command ≠ ~~~inverse) (hcommand : command ∉ known)
    (hcontrol : ~~~inverse ∈ known) : validate command inverse known = some (~~~inverse) := by
  rw [validate, xor_ff_eq_not, if_neg hcompl, if_neg hcommand, if_pos hcontrol]

/-- Step 5 of spec 42 R131: past all the tests, the frame is rejected. -/
theorem validate_eq_none (hcompl : command ≠ ~~~inverse) (hcommand : command ∉ known)
    (hcontrol : ~~~inverse ∉ known) : validate command inverse known = none := by
  rw [validate, xor_ff_eq_not, if_neg hcompl, if_neg hcommand, if_neg hcontrol]

end

/-- Settles O35: one law of the validator for each test. -/
theorem validatorMakesTheFourTestsInOrder : Obligations.ValidatorMakesTheFourTestsInOrder :=
  fun _ _ _ =>
    ⟨validate_of_complement, fun _ => validate_of_mem, validate_of_not_mem_of_mem, validate_eq_none⟩

end Sys2Proof.Machine

/-!
PROOFS. The Button Tracker (spec 43): its answer to a decoded command, a repeat signal and a timeout check (R141 to
R145), as the transactions that bring them show it, and the events one transaction can emit (R146).
-/

namespace Sys2Proof.Machine

/-! ## The deadline (spec 43 R145) -/

/-- Settles O38: 33 bits hold the sum for every 32-bit clock value. -/
theorem deadlineIsTheExactSum : Obligations.DeadlineIsTheExactSum :=
  deadlineFrom_toNat_eq_hold

/-! ## The response words of the tracker's events (spec 30 R74, R75) -/

theorem okResponse_quiet : okResponse 0#9 [] = quietRsp := rfl

/-- A response with read data 0 as one row of fields, its first slot opened into kind and byte. -/
theorem rspBits_openFirst (k : BitVec 2) (c : Byte) (y : EventWord) :
    (0b000#3 ++ 0#9 ++ (k ++ c : EventWord) ++ y : RspWord) = 0x000#12 ++ k ++ c ++ y := by
  apply BitVec.eq_of_toNat_eq
  simp only [toNat_append_eq_add, BitVec.toNat_ofNat]
  omega

theorem okResponse_pressed (c : Byte) : okResponse 0#9 [.pressed c] = pressedRsp c :=
  rspBits_openFirst 0b10#2 c 0x000#10

theorem okResponse_released (p : Byte) : okResponse 0#9 [.released p] = releasedRsp p :=
  rspBits_openFirst 0b11#2 p 0x000#10

theorem okResponse_released_pressed (p c : Byte) :
    okResponse 0#9 [.released p, .pressed c] = releasedPressedRsp p c :=
  calc okResponse 0#9 [.released p, .pressed c]
    _ = 0x000#12 ++ 0b11#2 ++ p ++ (0b10#2 ++ c : EventWord) := rspBits_openFirst 0b11#2 p (0b10#2 ++ c)
    _ = releasedPressedRsp p c := BitVec.append_assoc.symm

/-! ## What the tracker does in each mode (spec 43 R141 to R144) -/

section

variable {t : ButtonTrackerState} {now : Time}

theorem onCommand_of_held {c : Byte} (h : t.activeCommand = some c) : onCommand t c now = refresh t now := if_pos h

theorem onCommand_of_not_held {c : Byte} (h : t.activeCommand ≠ some c) : onCommand t c now = press t c now :=
  if_neg h

theorem onRepeat_of_idle (h : t.activeCommand = none) : onRepeat t now = { tracker := t, events := [] } := by
  rw [onRepeat, h]

theorem onRepeat_of_holding (h : t.activeCommand ≠ none) : onRepeat t now = refresh t now := by
  obtain ⟨c, hc⟩ := Option.ne_none_iff_exists'.1 h
  rw [onRepeat, hc]

/-- A release needs a held command and a clock value strictly past its deadline; the two cases of the timeout check
exclude each other. -/
theorem onTimeout_of_past {p : Byte} (hheld : t.activeCommand = some p) (hpast : t.repeatDeadline.toNat < now.toNat) :
    onTimeout t now = { tracker := { t with activeCommand := none }, events := [.released p] } := by
  obtain ⟨-, hidle | hnot⟩ | ⟨q, hq, -, hrelease⟩ := onTimeout_cases t now
  · exact absurd (hidle.symm.trans hheld) nofun
  · exact absurd hpast hnot.not_gt
  · cases hq.symm.trans hheld
    exact hrelease

theorem onTimeout_of_idle_or_not_past (h : t.activeCommand = none ∨ now.toNat ≤ t.repeatDeadline.toNat) :
    onTimeout t now = { tracker := t, events := [] } := by
  obtain ⟨hnone, -⟩ | ⟨p, hp, hpast, -⟩ := onTimeout_cases t now
  · exact hnone
  · obtain hidle | hnot := h
    · exact absurd (hidle.symm.trans hp) nofun
    · exact absurd hpast hnot.not_gt

end

/-! ## A transaction on the edge path or the timeout path, by what its components answer (spec 44 R160, R163, R164) -/

section

variable {s : State} {mark space : Duration} {now : Time}

theorem exec_pulse_of_assemble {a : Assembled} (hconn : s.connected = true)
    (ha : assemble s.decoder (classify s.decoder.phase (interval mark space)) = some a) :
    exec (.pulse mark space now) s =
      .next (({ s with decoder := a.decoder, tracker := (track s.tracker a now).tracker } : State).respondOk 0#9
        (track s.tracker a now).events) := by
  change execPulse mark space now s = _
  rw [execPulse, if_pos hconn, pulseConnected, ha]

theorem exec_tick_of_disconnected (h : s.connected = false) : exec (.tick now) s = .next (s.respondOk 0#9 []) := by
  change execTick now s = _
  simp [execTick, h]

theorem exec_tick_of_connected (h : s.connected = true) :
    exec (.tick now) s =
      .next (({ s with tracker := (onTimeout s.tracker now).tracker } : State).respondOk 0#9
        (onTimeout s.tracker now).events) := by
  change execTick now s = _
  rw [execTick, if_pos h]

end

/-! ## TICK (spec 43 R144, spec 44 R164) -/

/-- Settles O21: connected, a `TICK` is the timeout check, which releases in the one case and writes nothing in the
other. -/
theorem tickReleasesOnlyPastTheDeadline : Obligations.TickReleasesOnlyPastTheDeadline := by
  refine ⟨fun now => decode_joinWord (encodeFields (.tick now)), fun now s => ?_⟩
  refine ⟨fun p hconn hheld hpast => ?_, fun h => ?_⟩
  · rw [exec_tick_of_connected hconn, onTimeout_of_past hheld hpast, ← okResponse_released]
    rfl
  · rw [← okResponse_quiet]
    obtain hconn | hdisc := Bool.eq_false_or_eq_true s.connected
    · have hquiet := h.resolve_left (by simp [hconn])
      rw [exec_tick_of_connected hconn, onTimeout_of_idle_or_not_past hquiet]
      rfl
    · rw [exec_tick_of_disconnected hdisc]
      rfl

/-! ## The repeat signal (spec 43 R143) -/

/-- A repeat-length pulse, while a start is awaited, reaches the tracker and leaves the decoder. -/
theorem exec_repeatPulse {mark space : Duration} {s : State} (now : Time) (hconn : s.connected = true)
    (hphase : s.decoder.phase = .awaitingStartOrRepeat) (hlow : 10000 ≤ interval mark space)
    (hhigh : interval mark space < 12500) :
    exec (.pulse mark space now) s =
      .next (({ s with tracker := (onRepeat s.tracker now).tracker } : State).respondOk 0#9
        (onRepeat s.tracker now).events) := by
  obtain ⟨-, hrepeat, -⟩ := classify_awaiting_iff (interval mark space)
  refine exec_pulse_of_assemble (a := { decoder := s.decoder, result := .incomplete, repeated := true }) hconn ?_
  rw [hphase, hrepeat.2 ⟨hlow, hhigh⟩]
  simp [assemble, hphase]

/-- Settles O23, by whether something is held when the signal reaches the tracker. -/
theorem repeatSignalRefreshesOnlyWhileHolding : Obligations.RepeatSignalRefreshesOnlyWhileHolding := by
  intro mark space now s hconn hphase hlow hhigh
  have hexec := exec_repeatPulse now hconn hphase hlow hhigh
  rw [← okResponse_quiet]
  refine ⟨fun hheld => ?_, fun hidle => ?_⟩
  · rw [hexec, onRepeat_of_holding hheld]
    rfl
  · rw [hexec, onRepeat_of_idle hidle]
    rfl

/-! ## The 32nd frame bit (spec 41 R117, spec 43 R141, R142) -/

/-- A pulse of bit length is the symbol of its bit (spec 40 R102). -/
theorem classify_accumulating_bit {x : Nat} (h : x < 2700) :
    classify .accumulatingBits x = if decide (1600 ≤ x) then .bit1 else .bit0 := by
  obtain ⟨hzero, hone, -⟩ := classify_accumulating_iff x
  by_cases hx : 1600 ≤ x
  · simp [hx, hone.2 ⟨hx, h⟩]
  · simp [hx, hzero.2 (Nat.lt_of_not_le hx)]

/-- The shift of a pulse's bit, with the bit as the number that spec 41 R119 adds. -/
theorem shl8_pulseBit (acc : Byte) (x : Nat) :
    shl8 acc (decide (1600 ≤ x)) = BitVec.ofNat 8 (2 * acc.toNat + if x < 1600 then 0 else 1) := by
  rw [shl8_eq_ofNat]
  by_cases hx : 1600 ≤ x
  · simp [hx, hx.not_gt]
  · simp [hx, Nat.lt_of_not_le hx]

/-- A pulse of bit length, in a frame, brings its bit to the assembler (spec 41 R114 to R117). -/
theorem assemble_classify_bit {d : DecoderState} {x : Nat} (hphase : d.phase = .accumulatingBits) (h : x < 2700) :
    assemble d (classify d.phase x) = some (assembleBit d (decide (1600 ≤ x))) := by
  rw [hphase, classify_accumulating_bit h, assemble_bitSymbol hphase]

section

variable {mark space : Duration} {s : State}

/-- The 32nd bit resets the decoder and hands the validator's answer to the tracker. -/
theorem exec_lastBit {r : FrameResult} (now : Time) (hconn : s.connected = true)
    (hphase : s.decoder.phase = .accumulatingBits) (hlen : interval mark space < 2700)
    (hbits : s.decoder.bitsReceived = 31#6)
    (hr : (assembleLastBit s.decoder (decide (1600 ≤ interval mark space))).result = r) :
    let tracked := track s.tracker { decoder := .initial, result := r, repeated := false } now
    exec (.pulse mark space now) s =
      .next (({ s with decoder := .initial, tracker := tracked.tracker } : State).respondOk 0#9 tracked.events) := by
  have hcount : s.decoder.bitsReceived.toNat + 1 = 32 := by rw [hbits]; rfl
  exact exec_pulse_of_assemble hconn
    ((assemble_classify_bit hphase hlen).trans (congrArg some (assembleBit_last_of_result hcount hr)))

/-- A frame the validator accepts is a command for the tracker. -/
theorem exec_lastBit_accepted {c : Byte} (now : Time) (hconn : s.connected = true)
    (hphase : s.decoder.phase = .accumulatingBits) (hlen : interval mark space < 2700)
    (hbits : s.decoder.bitsReceived = 31#6)
    (hc : validate s.decoder.commandBits
      (BitVec.ofNat 8 (2 * s.decoder.inverseCommandBits.toNat + if interval mark space < 1600 then 0 else 1))
      Config.known = some c) :
    exec (.pulse mark space now) s =
      .next (({ s with decoder := .initial, tracker := (onCommand s.tracker c now).tracker } : State).respondOk 0#9
        (onCommand s.tracker c now).events) := by
  rw [← shl8_pulseBit] at hc
  exact exec_lastBit now hconn hphase hlen hbits (assembleLastBit_accepted _ _ c hc)

/-- A frame the validator rejects does not reach the tracker. -/
theorem exec_lastBit_rejected (now : Time) (hconn : s.connected = true)
    (hphase : s.decoder.phase = .accumulatingBits) (hlen : interval mark space < 2700)
    (hbits : s.decoder.bitsReceived = 31#6)
    (hnone : validate s.decoder.commandBits
      (BitVec.ofNat 8 (2 * s.decoder.inverseCommandBits.toNat + if interval mark space < 1600 then 0 else 1))
      Config.known = none) :
    exec (.pulse mark space now) s = .next (({ s with decoder := .initial } : State).respondOk 0#9 []) := by
  rw [← shl8_pulseBit] at hnone
  exact exec_lastBit now hconn hphase hlen hbits (assembleLastBit_rejected _ _ hnone)

end

/-- Settles O28, by the validator's answer and, for an accepted command, by what is held. -/
theorem lastBitValidatesResetsAndPresses : Obligations.LastBitValidatesResetsAndPresses := by
  intro mark space now s hconn hphase hlen hbits bit answer freshDecoder deadline
  have haccepted {c : Byte} (hc : answer = some c) := exec_lastBit_accepted now hconn hphase hlen hbits hc
  refine ⟨fun hnone => ?_, fun c hc hheld => ?_, fun c hc hidle => ?_, fun c p hc hheld hne => ?_⟩
  · rw [exec_lastBit_rejected now hconn hphase hlen hbits hnone, ← okResponse_quiet]
    rfl
  · rw [haccepted hc, onCommand_of_held hheld, ← okResponse_quiet]
    rfl
  · rw [haccepted hc, onCommand_of_not_held (by simp [hidle]), press_events_idle _ _ _ hidle, ← okResponse_pressed]
    rfl
  · rw [haccepted hc, onCommand_of_not_held (by simp [hheld, hne]), press_events_holding _ _ _ _ hheld,
      ← okResponse_released_pressed]
    rfl

/-! ## The events of one transaction (spec 43 R146) -/

/-- The event lists R146 allows in a transaction that begins with `before` held and ends with `after` held. -/
def TransactionEvents (before after : Option Byte) (es : List Event) : Prop :=
  es = [] ∨ (∃ c, es = [.pressed c]) ∨ (∃ p, es = [.released p]) ∨
    ∃ p c, p ≠ c ∧ before = some p ∧ after = some c ∧ es = [.released p, .pressed c]

/-- The two slots of a response lose none of the events a transaction emits. -/
theorem responseEvents_okResponse {before after : Option Byte} {es : List Event} (d : ReadData)
    (h : TransactionEvents before after es) : responseEvents (okResponse d es) = es := by
  obtain rfl | ⟨c, rfl⟩ | ⟨p, rfl⟩ | ⟨p, c, -, -, -, rfl⟩ := h
  · exact responseEvents_okResponse_nil d
  · exact responseEvents_okResponse_one d _
  · exact responseEvents_okResponse_one d _
  · exact responseEvents_okResponse_two d _ _

/-- A press of what is not held emits the second event only where something else is held. -/
theorem press_transactionEvents {t : ButtonTrackerState} {c : Byte} (now : Time) (h : t.activeCommand ≠ some c) :
    TransactionEvents t.activeCommand (some c) (press t c now).events := by
  cases hheld : t.activeCommand with
  | none => exact .inr (.inl ⟨c, press_events_idle t c now hheld⟩)
  | some p =>
    have hne : p ≠ c := fun heq => h (heq ▸ hheld)
    exact .inr (.inr (.inr ⟨p, c, hne, rfl, rfl, press_events_holding t c p now hheld⟩))

theorem track_transactionEvents (t : ButtonTrackerState) (a : Assembled) (now : Time) :
    TransactionEvents t.activeCommand (track t a now).tracker.activeCommand (track t a now).events := by
  obtain hnone | ⟨-, hrefresh⟩ | ⟨c, -, hne, hpress⟩ := track_cases t a now
  · rw [hnone]; exact .inl rfl
  · rw [hrefresh]; exact .inl rfl
  · rw [hpress]; exact press_transactionEvents now hne

theorem onTimeout_transactionEvents (t : ButtonTrackerState) (now : Time) :
    TransactionEvents t.activeCommand (onTimeout t now).tracker.activeCommand (onTimeout t now).events := by
  obtain ⟨hnone, -⟩ | ⟨p, -, -, hrelease⟩ := onTimeout_cases t now
  · rw [hnone]; exact .inl rfl
  · rw [hrelease]; exact .inr (.inr (.inl ⟨p, rfl⟩))

/-- A transaction's one response, with the events it was made of. -/
theorem exec_transactionEvents {i : Instr} {s t : State} (h : exec i s = .next t) :
    ∃ d es, t.responses = s.responses ++ [okResponse d es] ∧
      TransactionEvents s.tracker.activeCommand t.tracker.activeCommand es := by
  cases i with
  | nop | connect | poll | current | isPressed => cases h; exact ⟨_, [], rfl, .inl rfl⟩
  | pulse mark space now =>
    obtain ⟨-, rfl⟩ | ⟨-, a, -, rfl⟩ := exec_pulse_cases h
    · exact ⟨_, [], rfl, .inl rfl⟩
    · exact ⟨_, _, rfl, track_transactionEvents s.tracker a now⟩
  | tick now =>
    obtain ⟨-, rfl⟩ | ⟨-, rfl⟩ := exec_tick_cases h
    · exact ⟨_, [], rfl, .inl rfl⟩
    · exact ⟨_, _, rfl, onTimeout_transactionEvents s.tracker now⟩

/-- Settles O40: what the two paths can emit, read back from the response. -/
theorem eventsPerTransactionAreAtMostTwo : Obligations.EventsPerTransactionAreAtMostTwo := by
  intro i s
  obtain ⟨t, ht⟩ := exec_completes i s
  obtain ⟨d, es, hresp, hform⟩ := exec_transactionEvents ht
  refine ⟨t, okResponse d es, ht, hresp, ?_⟩
  rw [responseEvents_okResponse d hform]
  exact hform

end Sys2Proof.Machine

/-!
PROOFS. The port's operations (spec 44): which words are legal and what an illegal one does (R160, R168), and the five
transactions that reach neither the edge path nor the timeout path (R161, R162, R165 to R167).
-/

namespace Sys2Proof

/-! ## Legal fields are exactly the decoded ones (spec 44 R160) -/

theorem withoutOperands_accepts {f : TxnFields} (i : Instr) (ha : f.a = 0#32) (hb : f.b = 0#32) :
    withoutOperands f i = .instr i := by
  simp [withoutOperands, ha, hb]

theorem decodeIsPressed_accepts {f : TxnFields} (ha : f.a = 0#32) (hb : f.b.extractLsb' 8 24 = 0#24) :
    decodeIsPressed f = .instr (.isPressed (f.b.extractLsb' 0 8) f.now) := by
  simp [decodeIsPressed, ha, hb]

theorem decodeFields_of_reserved {f : TxnFields} (h : 7 ≤ f.op.toNat) :
    decodeFields f = .reject (.reservedOpcode f.op) := by
  unfold decodeFields
  split
  case h_8 => rfl
  all_goals omega

/-- The three clauses of `legal(op, a, b)` as propositions. -/
theorem TxnFields.legal_iff {f : TxnFields} :
    f.legal = true ↔
      (f.takesNoOperand = true ∧ f.a = 0#32 ∧ f.b = 0#32) ∨ f.op = 2#4 ∨
        (f.op = 6#4 ∧ f.a = 0#32 ∧ f.b.extractLsb' 8 24 = 0#24) := by
  simp [TxnFields.legal, and_assoc, or_assoc]

/-- An opcode takes no operand, or is `PULSE`'s or `ISPRESSED`'s, or is reserved (spec 30 R71). -/
theorem TxnFields.opcode_cases (f : TxnFields) :
    f.takesNoOperand = true ∨ f.op = 2#4 ∨ f.op = 6#4 ∨ 7 ≤ f.op.toNat := by
  obtain ⟨op, now, a, b⟩ := f
  revert op
  simp only [TxnFields.takesNoOperand]
  decide

theorem decodeFields_of_legal {f : TxnFields} (h : f.legal = true) : ∃ i, decodeFields f = .instr i := by
  obtain ⟨hno, ha, hb⟩ | hop | ⟨hop, ha, hb⟩ := TxnFields.legal_iff.1 h
  · obtain ⟨i, hi⟩ := decodeFields_of_takesNoOperand hno
    exact ⟨i, hi.trans (withoutOperands_accepts i ha hb)⟩
  · exact ⟨.pulse f.a f.b f.now, by simp [decodeFields, hop]⟩
  · have hdec : decodeFields f = decodeIsPressed f := by simp [decodeFields, hop]
    exact ⟨_, hdec.trans (decodeIsPressed_accepts ha hb)⟩

/-- Illegal fields have an operand that must be zero and is not, or a reserved opcode. -/
theorem decodeFields_of_illegal {f : TxnFields} (h : f.legal = false) : ∃ r, decodeFields f = .reject r := by
  have hnot : ¬ f.legal = true := by simp [h]
  rw [TxnFields.legal_iff] at hnot
  obtain hno | hop | hop | hop := f.opcode_cases
  · obtain ⟨i, hi⟩ := decodeFields_of_takesNoOperand hno
    rw [hi]
    exact withoutOperands_rejects i (not_and_or.1 fun hab => hnot (.inl ⟨hno, hab⟩))
  · exact absurd (.inr (.inl hop)) hnot
  · have hdec : decodeFields f = decodeIsPressed f := by simp [decodeFields, hop]
    rw [hdec]
    exact decodeIsPressed_rejects (not_and_or.1 fun hab => hnot (.inr (.inr ⟨hop, hab⟩)))
  · exact ⟨_, decodeFields_of_reserved hop⟩

/-! ## The word of each transaction (spec 30 R70 to R72) -/

/-- The code of an `ISPRESSED` stands in the low byte of `b`, under 24 zero bits; the other operands are whole fields. -/
theorem decode_encode (i : Instr) : decode (encode i) = .instr i := by
  rw [encode, decode_joinWord]
  cases i with
  | nop | connect | pulse | tick | poll | current => rfl
  | isPressed code now =>
    calc decodeIsPressed (encodeFields (.isPressed code now))
      _ = .instr (.isPressed ((0#24 ++ code : BitVec 32).extractLsb' 0 8) now) :=
        decodeIsPressed_accepts rfl BitVec.extractLsb'_append_eq_left
      _ = .instr (.isPressed code now) := by rw [BitVec.extractLsb'_append_eq_right]

end Sys2Proof

namespace Sys2Proof.Machine

/-! ## Illegal words (spec 44 R168, spec 60 R193) -/

/-- A step with a word at the port takes it off the list and processes it. -/
theorem step_of_pending {s : State} {w : TxnWord} {ws : List TxnWord} (h : s.pending = w :: ws) :
    step s = transact w { s with pending := ws } := by
  rw [step, acceptNext, h]

/-- Settles O10: the decoder rejects an illegal word, and a legal one is a transaction, whose one response is `OK`. -/
theorem illegalWordIsAnsweredAndForgotten : Obligations.IllegalWordIsAnsweredAndForgotten := by
  intro s w ws hpending
  rw [step_of_pending hpending]
  refine ⟨fun hillegal => ?_, fun hlegal => ?_⟩
  · obtain ⟨r, hr⟩ := decodeFields_of_illegal (f := splitWord w) hillegal
    exact transact_of_reject hr _
  · obtain ⟨i, hi⟩ := decodeFields_of_legal (f := splitWord w) hlegal
    obtain ⟨t, ht⟩ := exec_completes i { s with pending := ws }
    obtain ⟨d, es, hresp⟩ := exec_responses ht
    exact ⟨t, okResponse d es, (transact_of_instr hi _).trans ht, hresp, responseIllegal_okResponse d es⟩

/-! ## The response words of the reads (spec 30 R74, R76, R81) -/

theorem okResponse_flagData (flag : Bool) :
    okResponse (flagData flag) [] = if flag then 0x00100000#32 else 0x00000000#32 := by
  cases flag <;> rfl

theorem okResponse_optionByteCode_some (c : Byte) :
    okResponse (optionByteCode (some c)) [] = 0b0001#4 ++ c ++ 0x00000#20 := by
  apply BitVec.eq_of_toNat_eq
  simp only [okResponse_toNat, optionByteCode, toNat_append_eq_add, List.getElem?_nil, eventSlot_none,
    BitVec.toNat_ofNat]
  omega

/-! ## The transactions of the application (spec 44 R161, R162, R165 to R167) -/

/-- Settles O15: the next state of `NOP` is the answer alone. -/
theorem nopChangesNothing : Obligations.NopChangesNothing :=
  ⟨fun now => decode_encode (.nop now), decode_encode (.nop 0#32), exec_nop⟩

/-- Once set, the control bit stays: `CONNECT` writes `true`, and nothing else writes it (spec 10 R31, R41). -/
theorem exec_keeps_connected {i : Instr} {s t : State} (hconn : s.connected = true) (h : exec i s = .next t) :
    t.connected = true := by
  obtain ⟨-, howner⟩ := ownershipTableHolds i s t h
  cases i with
  | connect => exact howner.1
  | nop | pulse | tick | poll | current | isPressed => exact howner.1.trans hconn

/-- Settles O16: the next state of `CONNECT`, and the control bit by the ownership table. -/
theorem connectSetsConnectedForGood : Obligations.ConnectSetsConnectedForGood :=
  ⟨fun now => decode_encode (.connect now), exec_connect, fun _ _ _ => exec_keeps_connected⟩

/-- Settles O17: the latch is read before it is cleared. -/
theorem pollReturnsAndClearsTheLatch : Obligations.PollReturnsAndClearsTheLatch := by
  refine ⟨fun now => decode_encode (.poll now), fun now s => ?_⟩
  rw [exec_poll, ← okResponse_flagData]
  rfl

/-- Settles O18, by whether anything was pressed yet. -/
theorem currentReturnsTheLastCommand : Obligations.CurrentReturnsTheLastCommand := by
  refine ⟨fun now => decode_encode (.current now), fun now s => ?_⟩
  rw [exec_current]
  cases s.tracker.lastCommand with
  | none => rfl
  | some c =>
    simp only [← okResponse_optionByteCode_some]
    rfl

/-- Settles O19: the comparison is with the held command alone. -/
theorem isPressedComparesTheActiveCommand : Obligations.IsPressedComparesTheActiveCommand := by
  refine ⟨fun code now => decode_encode (.isPressed code now), fun code now s => ⟨fun hheld => ?_, fun hnot => ?_⟩⟩
  · have hholds : s.tracker.holds code = true := beq_iff_eq.2 hheld
    rw [exec_isPressed, hholds]
    rfl
  · have hholds : s.tracker.holds code = false := beq_eq_false_iff_ne.2 hnot
    rw [exec_isPressed, hholds]
    rfl

end Sys2Proof.Machine

/-!
PROOFS. What the block has in the place of exceptions (spec 60): every word completes (R190), a decode failure resets
the decoder and touches nothing else (R191, R192, R200), and past the deadline the order of a `TICK` and a completing
pulse decides what is seen (R198).
-/

namespace Sys2Proof.Machine

/-! ## Totality (spec 60 R190) -/

/-- Settles O11: a transaction completes by its own totality, a word because it is answered. -/
theorem everyTransactionCompletes : Obligations.EveryTransactionCompletes := by
  refine ⟨exec_completes, fun w s => ?_⟩
  obtain ⟨t, -, ht, -, -⟩ := transact_responds w s
  exact ⟨t, ht⟩

/-! ## Decode failures (spec 60 R191, R192, R200) -/

/-- A pulse too long for a bit aborts the frame, at any bit count, and does not reach the tracker. -/
theorem exec_abort {mark space : Duration} {s : State} (now : Time) (hconn : s.connected = true)
    (hphase : s.decoder.phase = .accumulatingBits) (hlong : 2700 ≤ interval mark space) :
    exec (.pulse mark space now) s = .next (({ s with decoder := .initial } : State).respondOk 0#9 []) := by
  obtain ⟨-, -, hinvalid⟩ := classify_accumulating_iff (interval mark space)
  refine exec_pulse_of_assemble (a := { decoder := .initial, result := .aborted, repeated := false }) hconn ?_
  rw [hphase, hinvalid.2 hlong, assemble_invalid hphase]

/-- Settles O29: an abort, or a 32nd bit whose two bytes fail every test of the validator. -/
theorem decodeFailuresTouchOnlyTheDecoder : Obligations.DecodeFailuresTouchOnlyTheDecoder := by
  intro mark space now s hconn hphase freshDecoder bit controlBits
  rw [← okResponse_quiet]
  refine ⟨exec_abort now hconn hphase, fun hlen hbits hcompl hcommand hcontrol => ?_⟩
  exact exec_lastBit_rejected now hconn hphase hlen hbits (validate_eq_none hcompl hcommand hcontrol)

/-! ## The order of a `TICK` and a completing pulse (spec 60 R198) -/

/-- The first transaction of a run has completed, and the rest runs on its next state (spec 20 R58). -/
theorem runAll_cons_of_next {i : Instr} {is : List Instr} {s t : State} (h : exec i s = .next t) :
    runAll (i :: is) s = runAll is t := by
  rw [runAll, h]

/-- A deadline just written is not past (spec 43 R144, R145). -/
theorem le_deadlineFrom (now : Time) : now.toNat ≤ (deadlineFrom now).toNat := by
  rw [deadlineFrom_toNat_eq_hold]
  exact Nat.le_add_right _ _

/-- Settles O54: a `TICK` first leaves nothing held, so the frame is a press; the frame first moves the deadline
beyond the clock, so the `TICK` finds nothing to release. -/
theorem orderOfTickAndFrameDecides : Obligations.OrderOfTickAndFrameDecides := by
  intro mark space now s p hconn hphase hbits hlen hvalid hheld hpast
  obtain ⟨-, htick⟩ := tickReleasesOnlyPastTheDeadline
  have hframe := lastBitValidatesResetsAndPresses mark space now
  constructor
  · obtain ⟨hrelease, -⟩ := htick now s
    obtain ⟨-, -, hpress, -⟩ := hframe
      { s with
        tracker := { s.tracker with activeCommand := none }
        responses := s.responses ++ [releasedRsp p] } hconn hphase hlen hbits
    refine ⟨_, (runAll_cons_of_next (hrelease p hconn hheld hpast)).trans
      (runAll_cons_of_next (hpress p hvalid rfl)), ?_, rfl, rfl⟩
    exact List.append_assoc ..
  · obtain ⟨-, hrefresh, -, -⟩ := hframe s hconn hphase hlen hbits
    obtain ⟨-, hquiet⟩ := htick now
      { s with
        decoder := .initial
        tracker := { s.tracker with repeatDeadline := deadlineFrom now }
        responses := s.responses ++ [quietRsp] }
    refine ⟨_, (runAll_cons_of_next (hrefresh p hvalid hheld)).trans
      (runAll_cons_of_next (hquiet (.inr (.inr (le_deadlineFrom now))))), ?_, rfl⟩
    exact List.append_assoc ..

end Sys2Proof.Machine

/-!
PROOFS. The encoding in both directions (spec 30 R70 to R73, spec 44 R160), and the port: one step, the gate of the
control bit, and the words processed in order (spec 20 R58, spec 60 R206).
-/

namespace Sys2Proof

/-! ## The fields of a decoded word (spec 30 R70 to R73) -/

/-- What the shared operand check lets through has both operand fields 0. -/
theorem operands_zero_of_withoutOperands {f : TxnFields} {i j : Instr} (h : withoutOperands f i = .instr j) :
    f.a = 0#32 ∧ f.b = 0#32 := by
  unfold withoutOperands at h
  split_ifs at h with ha hb
  exact ⟨not_not.1 ha, not_not.1 hb⟩

/-- What `ISPRESSED`'s operand check lets through has all but the low byte of its operands 0. -/
theorem eq_of_decodeIsPressed {f : TxnFields} {j : Instr} (h : decodeIsPressed f = .instr j) :
    j = .isPressed (f.b.extractLsb' 0 8) f.now ∧ f.a = 0#32 ∧ f.b.extractLsb' 8 24 = 0#24 := by
  unfold decodeIsPressed at h
  split_ifs at h with ha hb
  exact ⟨(Decoded.instr.inj h).symm, not_not.1 ha, not_not.1 hb⟩

/-- An operand whose upper 24 bits are 0 is its low byte. -/
theorem zero_append_low_byte {b : BitVec 32} (h : b.extractLsb' 8 24 = 0#24) : 0#24 ++ b.extractLsb' 0 8 = b := by
  rw [← h]
  apply BitVec.eq_of_getLsbD_eq
  intro i hi
  simp only [BitVec.getLsbD_append, BitVec.getLsbD_extractLsb']
  grind

/-- Fields without operands that decode are the fields of their transaction. -/
theorem encodeFields_of_withoutOperands {f : TxnFields} {i j : Instr} (h : withoutOperands f i = .instr j)
    (hi : encodeFields i = { op := f.op, now := f.now, a := 0#32, b := 0#32 }) : encodeFields j = f := by
  obtain ⟨ha, hb⟩ := operands_zero_of_withoutOperands h
  cases eq_of_withoutOperands h
  obtain ⟨op, now, a, b⟩ := f
  subst ha hb
  exact hi

/-- Decoding loses no field: the decoded transaction is written with the very fields read. -/
theorem encodeFields_of_decodeFields {f : TxnFields} {i : Instr} (h : decodeFields f = .instr i) :
    encodeFields i = f := by
  have hop := opcode_of_decodeFields h
  obtain ⟨op, now, a, b⟩ := f
  cases i with
  | pulse => obtain rfl : op = 2#4 := hop; cases h; rfl
  | isPressed code stamp =>
    obtain rfl : op = 6#4 := hop
    obtain ⟨hinstr, ha, hb⟩ := eq_of_decodeIsPressed h
    cases hinstr
    simp only [encodeFields, TxnFields.mk.injEq, true_and]
    exact ⟨ha.symm, zero_append_low_byte hb⟩
  | nop => obtain rfl : op = 0#4 := hop; exact encodeFields_of_withoutOperands (i := .nop now) h rfl
  | connect => obtain rfl : op = 1#4 := hop; exact encodeFields_of_withoutOperands (i := .connect now) h rfl
  | tick => obtain rfl : op = 3#4 := hop; exact encodeFields_of_withoutOperands (i := .tick now) h rfl
  | poll => obtain rfl : op = 4#4 := hop; exact encodeFields_of_withoutOperands (i := .poll now) h rfl
  | current => obtain rfl : op = 5#4 := hop; exact encodeFields_of_withoutOperands (i := .current now) h rfl

/-! ## The fields of a word as numbers (spec 30 R70) -/

theorem splitWord_op_toNat (w : TxnWord) : (splitWord w).op.toNat = w.toNat / 2 ^ 96 := by
  have hw := w.isLt
  simp only [splitWord, BitVec.extractLsb'_toNat, Nat.shiftRight_eq_div_pow]
  omega

theorem splitWord_a_toNat (w : TxnWord) : (splitWord w).a.toNat = w.toNat / 2 ^ 32 % 2 ^ 32 := by
  simp only [splitWord, BitVec.extractLsb'_toNat, Nat.shiftRight_eq_div_pow]

theorem splitWord_b_toNat (w : TxnWord) : (splitWord w).b.toNat = w.toNat % 2 ^ 32 := by
  simp only [splitWord, BitVec.extractLsb'_toNat, Nat.shiftRight_eq_div_pow, Nat.pow_zero, Nat.div_one]

/-- The bits above the low byte of an operand, as a number. -/
theorem high_bits_eq_zero_iff (b : BitVec 32) : b.extractLsb' 8 24 = 0#24 ↔ b.toNat / 2 ^ 8 = 0 := by
  have hb := b.isLt
  rw [← BitVec.toNat_inj, BitVec.extractLsb'_toNat, Nat.shiftRight_eq_div_pow, BitVec.toNat_ofNat]
  omega

theorem TxnFields.takesNoOperand_iff (f : TxnFields) :
    f.takesNoOperand = true ↔
      f.op.toNat = 0 ∨ f.op.toNat = 1 ∨ f.op.toNat = 3 ∨ f.op.toNat = 4 ∨ f.op.toNat = 5 := by
  simp [TxnFields.takesNoOperand, ← BitVec.toNat_inj, or_assoc]

/-- The predicate of spec 44 R160 on the numbers the fields stand for. -/
theorem TxnFields.legal_iff_toNat (f : TxnFields) :
    f.legal = true ↔
      (f.op.toNat = 0 ∨ f.op.toNat = 1 ∨ f.op.toNat = 3 ∨ f.op.toNat = 4 ∨ f.op.toNat = 5) ∧
          f.a.toNat = 0 ∧ f.b.toNat = 0 ∨
        f.op.toNat = 2 ∨ f.op.toNat = 6 ∧ f.a.toNat = 0 ∧ f.b.toNat / 2 ^ 8 = 0 := by
  rw [TxnFields.legal_iff, TxnFields.takesNoOperand_iff, high_bits_eq_zero_iff]
  simp only [← BitVec.toNat_inj, BitVec.toNat_ofNat, Nat.reducePow, Nat.reduceMod]

/-- The decoder's answer is a transaction exactly on legal fields. -/
theorem exists_decodeFields_iff_legal (f : TxnFields) : (∃ i, decodeFields f = .instr i) ↔ f.legal = true := by
  refine ⟨fun ⟨i, hi⟩ => ?_, decodeFields_of_legal⟩
  by_contra hillegal
  obtain ⟨r, hr⟩ := decodeFields_of_illegal (Bool.eq_false_of_not_eq_true hillegal)
  cases hi.symm.trans hr

/-- Settles O1: the fields of a word are those it was made of, and each transaction is read back from its own. -/
theorem decodeOfEncodeIsSame : Obligations.DecodeOfEncodeIsSame :=
  decode_encode

/-- Settles O2: neither the cut of a word into fields nor the decoding of the fields loses a bit. -/
theorem encodeOfDecodeIsSame : Obligations.EncodeOfDecodeIsSame := by
  intro w i h
  calc encode i
    _ = joinWord (splitWord w) := congrArg joinWord (encodeFields_of_decodeFields h)
    _ = w := joinWord_splitWord w

/-- Settles O3: the decoder accepts exactly the legal fields, and legality reads the fields as numbers. -/
theorem decoderAcceptsExactlyLegalWords : Obligations.DecoderAcceptsExactlyLegalWords := by
  intro w
  have h := (exists_decodeFields_iff_legal (splitWord w)).trans (TxnFields.legal_iff_toNat _)
  rwa [splitWord_op_toNat, splitWord_a_toNat, splitWord_b_toNat] at h

/-- Settles O4: each legal example is the word of its transaction; of the illegal ones the first has a reserved opcode
and the second a non-zero `b[31:8]`. -/
theorem decodesTheExampleWords : Obligations.DecodesTheExampleWords := by
  have hreserved : decode 0x7000000000000000000000000#100 = .reject (.reservedOpcode 7#4) := rfl
  have hnonZeroB : decode 0x6000000000000000000000162#100 = .reject .nonZeroB := rfl
  refine ⟨decode_encode (.nop 0#32), decode_encode (.connect 0#32), decode_encode (.pulse 9000#32 4500#32 1000#32),
    decode_encode (.tick 1621#32), decode_encode (.poll 0#32), decode_encode (.current 0#32),
    decode_encode (.isPressed 0x62#8 0#32), fun i => ?_, fun i => ?_⟩
  · rw [hreserved]; exact nofun
  · rw [hnonZeroB]; exact nofun

end Sys2Proof

namespace Sys2Proof.Machine

/-! ## One step at the port (spec 44 R160, spec 60 R206) -/

theorem step_of_no_pending {s : State} (h : s.pending = []) : step s = .next s := by
  rw [step, acceptNext, h]

/-- Settles O8: the step takes the word off the list, and the port runs what it decodes to. -/
theorem stepRunsTheDecodedTransaction : Obligations.StepRunsTheDecodedTransaction := by
  intro s w ws i hpending hdec
  rw [step_of_pending hpending, transact_of_instr hdec]

/-- Settles O9. -/
theorem stepWaitsWithoutATransaction : Obligations.StepWaitsWithoutATransaction :=
  fun _ => step_of_no_pending

/-! ## While not connected (spec 44 R160) -/

theorem exec_pulse_of_disconnected {s : State} (mark space : Duration) (now : Time) (h : s.connected = false) :
    exec (.pulse mark space now) s = .next (s.respondOk 0#9 []) := by
  change execPulse mark space now s = _
  simp [execPulse, h]

/-- Settles O20: the edge path and the timeout path are both behind the control bit. -/
theorem disconnectedPulseAndTickDoNothing : Obligations.DisconnectedPulseAndTickDoNothing :=
  fun mark space now _ hdisc => ⟨exec_pulse_of_disconnected mark space now hdisc, exec_tick_of_disconnected hdisc⟩

/-! ## The words behind the one processed (spec 20 R58) -/

/-- The state with other words presented. -/
def State.withPending (s : State) (ws : List TxnWord) : State :=
  { s with pending := ws }

/-- No transaction sees the words presented behind it. -/
theorem exec_withPending {i : Instr} {s t : State} (h : exec i s = .next t) (ws : List TxnWord) :
    exec i (s.withPending ws) = .next (t.withPending ws) := by
  cases i with
  | nop | connect | poll | current | isPressed => cases h; rfl
  | pulse mark space now =>
    obtain ⟨hdisc, rfl⟩ | ⟨hconn, a, ha, rfl⟩ := exec_pulse_cases h
    · exact exec_pulse_of_disconnected mark space now hdisc
    · exact exec_pulse_of_assemble (s := s.withPending ws) hconn ha
  | tick now =>
    obtain ⟨hdisc, rfl⟩ | ⟨hconn, rfl⟩ := exec_tick_cases h
    · exact exec_tick_of_disconnected hdisc
    · exact exec_tick_of_connected hconn

/-- A word is processed, the words behind it stay as they are and make no difference. -/
theorem transact_withPending (w : TxnWord) (s : State) :
    ∃ t : State, ∀ ws, transact w (s.withPending ws) = .next (t.withPending ws) := by
  cases hdec : decode w with
  | instr i =>
    obtain ⟨t, ht⟩ := exec_completes i s
    exact ⟨t, fun ws => (transact_of_instr hdec _).trans (exec_withPending ht ws)⟩
  | reject r => exact ⟨s.respondIllegal, fun ws => transact_of_reject hdec _⟩

/-- One more step of a run, when the step completes. -/
theorem core_run_succ_of_next (M : Host.Core) {s t : M.State} (h : M.step s = .next t) (k : Nat) :
    M.run (k + 1) s = M.run k t := by
  rw [Host.Core.run, h]

theorem runWords_cons_of_next {w : TxnWord} {s t : State} (h : transact w s = .next t) (ws : List TxnWord) :
    runWords (w :: ws) s = runWords ws t := by
  rw [runWords, h]

/-- Settles O13, by induction on the words presented: each step is the transaction of the first of them, whose outcome
does not depend on the rest. -/
theorem portProcessesWordsInOrder : Obligations.PortProcessesWordsInOrder := by
  intro ws rest s
  induction ws generalizing s with
  | nil => rfl
  | cons w ws ih =>
    obtain ⟨t, ht⟩ := transact_withPending w s
    have hstep : step (s.withPending (w :: (ws ++ rest))) = .next (t.withPending (ws ++ rest)) :=
      (step_of_pending rfl).trans (ht (ws ++ rest))
    have hword : runWords (w :: ws) (s.withPending rest) = runWords ws (t.withPending rest) :=
      runWords_cons_of_next (ht rest) ws
    have hrun := core_run_succ_of_next Sys2Proof.core (s := s.withPending (w :: (ws ++ rest)))
      (t := t.withPending (ws ++ rest)) hstep ws.length
    exact hrun.trans ((ih t).trans hword.symm)

end Sys2Proof.Machine

/-!
PROOFS. What a transaction does to the tracker and which events it emits, said once with its cause (spec 43 section 2),
and the three invariants that every step keeps (spec 10 R22, R25, R32, spec 43 R147).
-/

namespace Sys2Proof.Machine

/-! ## What completes a frame or repeats it (spec 40 R101, R102, spec 41 R112, R117) -/

/-- A pulse of `x` microseconds is a repeat signal in this decoder state. -/
def RepeatsAt (d : DecoderState) (x : Nat) : Prop :=
  d.phase = .awaitingStartOrRepeat ∧ 10000 ≤ x ∧ x < 12500

/-- A pulse of `x` microseconds completes, in this decoder state, a frame accepted as `c`. -/
def AcceptsAt (d : DecoderState) (x : Nat) (c : Byte) : Prop :=
  d.phase = .accumulatingBits ∧ 31 ≤ d.bitsReceived.toNat ∧ x < 2700 ∧
    validate d.commandBits (BitVec.ofNat 8 (2 * d.inverseCommandBits.toNat + if x < 1600 then 0 else 1))
      Config.known = some c

/-- No frame bit before the 32nd has a result for the tracker (spec 41 R114 to R116). -/
theorem assembleBit_result_of_not_last {d : DecoderState} (b : Bool) (h : d.bitsReceived.toNat + 1 ≤ 31) :
    (assembleBit d b).result = .incomplete := by
  obtain hn | ⟨hlow, hhigh⟩ | hlow :
      d.bitsReceived.toNat + 1 ≤ 16 ∨ (17 ≤ d.bitsReceived.toNat + 1 ∧ d.bitsReceived.toNat + 1 ≤ 24) ∨
        25 ≤ d.bitsReceived.toNat + 1 := by omega
  · rw [assembleBit_address d b hn]
  · rw [assembleBit_command d b hlow hhigh]
  · rw [assembleBit_inverse d b hlow h]

/-- A frame bit's result is a command only at the last bit, and then it is what the validator accepts (spec 41
R117). -/
theorem accepts_of_assembleBit {d : DecoderState} {b : Bool} {c : Byte} (h : (assembleBit d b).result = .command c) :
    31 ≤ d.bitsReceived.toNat ∧ validate d.commandBits (shl8 d.inverseCommandBits b) Config.known = some c := by
  have hlast : 32 ≤ d.bitsReceived.toNat + 1 := by
    by_contra hlt
    cases (assembleBit_result_of_not_last b (by omega)).symm.trans h
  rw [assembleBit_last d b hlast] at h
  refine ⟨by omega, ?_⟩
  cases hvalid : validate d.commandBits (shl8 d.inverseCommandBits b) Config.known with
  | none => cases (assembleLastBit_rejected d b hvalid).symm.trans h
  | some v => cases (assembleLastBit_accepted d b v hvalid).symm.trans h; rfl

/-- The repeat output is set by a repeat signal alone. -/
theorem repeatsAt_of_assemble {d : DecoderState} {x : Nat} {a : Assembled}
    (h : assemble d (classify d.phase x) = some a) (hrep : a.repeated = true) : RepeatsAt d x := by
  obtain ⟨hphase, ⟨-, rfl⟩ | ⟨hy, rfl⟩ | ⟨-, rfl⟩⟩ | ⟨-, ⟨-, rfl⟩ | ⟨-, rfl⟩ | ⟨-, rfl⟩⟩ := assemble_cases h
  case inl.inr.inl =>
    obtain ⟨-, hrepeat, -⟩ := classify_awaiting_iff x
    exact ⟨hphase, hrepeat.1 (hphase ▸ hy)⟩
  all_goals simp at hrep

/-- A command comes only from the pulse that completes an accepted frame. -/
theorem acceptsAt_of_assemble {d : DecoderState} {x : Nat} {a : Assembled} {c : Byte}
    (h : assemble d (classify d.phase x) = some a) (hc : a.result = .command c) : AcceptsAt d x c := by
  cases hphase : d.phase with
  | awaitingStartOrRepeat =>
    obtain ⟨-, hawait⟩ | ⟨haccum, -⟩ := assemble_cases h
    · obtain ⟨-, rfl⟩ | ⟨-, rfl⟩ | ⟨-, rfl⟩ := hawait <;> cases hc
    · cases hphase.symm.trans haccum
  | accumulatingBits =>
    by_cases hx : x < 2700
    · cases (assemble_classify_bit hphase hx).symm.trans h
      obtain ⟨hbits, hvalid⟩ := accepts_of_assembleBit hc
      exact ⟨hphase, hbits, hx, shl8_pulseBit d.inverseCommandBits x ▸ hvalid⟩
    · obtain ⟨-, -, hinvalid⟩ := classify_accumulating_iff x
      rw [hphase, hinvalid.2 (Nat.le_of_not_lt hx), assemble_invalid hphase] at h
      cases h
      cases hc

/-! ## What a transaction does to the tracker, and the events it emits (spec 10 R41, spec 43 R141 to R144) -/

/-- From `s`, a transaction leaves the tracker with these registers and emits these events. -/
inductive TrackerEffect (s : State) : Instr → ButtonTrackerState → List Event → Prop
  /-- nothing is written -/
  | quiet {i : Instr} (hpoll : ∀ now, i ≠ .poll now) : TrackerEffect s i s.tracker []
  /-- the latch is read and cleared (spec 44 R165) -/
  | poll (now : Time) : TrackerEffect s (.poll now) s.tracker.clearUnseen []
  /-- a held command's deadline is moved, by a repeat signal or by the same command again (spec 43 R142, R143) -/
  | refresh {mark space : Duration} {now : Time} (hconn : s.connected = true)
      (hheld : s.tracker.activeCommand ≠ none)
      (hcause : RepeatsAt s.decoder (interval mark space) ∨
        ∃ c, AcceptsAt s.decoder (interval mark space) c ∧ s.tracker.activeCommand = some c) :
      TrackerEffect s (.pulse mark space now) (refresh s.tracker now).tracker []
  /-- a command that is not held is pressed (spec 43 R141) -/
  | press {mark space : Duration} {now : Time} {c : Byte} (hconn : s.connected = true)
      (hcause : AcceptsAt s.decoder (interval mark space) c) (hnot : s.tracker.activeCommand ≠ some c) :
      TrackerEffect s (.pulse mark space now) (press s.tracker c now).tracker (press s.tracker c now).events
  /-- a held command is released past its deadline (spec 43 R144) -/
  | release {now : Time} {p : Byte} (hheld : s.tracker.activeCommand = some p)
      (hpast : s.tracker.repeatDeadline.toNat < now.toNat) :
      TrackerEffect s (.tick now) { s.tracker with activeCommand := none } [.released p]

/-- The edge path: the three cases of the tracker's share, with what caused them in the decoder. -/
theorem trackerEffect_of_track {mark space : Duration} {s : State} {a : Assembled} (now : Time)
    (hconn : s.connected = true)
    (ha : assemble s.decoder (classify s.decoder.phase (interval mark space)) = some a) :
    TrackerEffect s (.pulse mark space now) (track s.tracker a now).tracker (track s.tracker a now).events := by
  obtain hnone | ⟨⟨hheld, hcause⟩, hrefresh⟩ | ⟨c, hc, hnot, hpress⟩ := track_cases s.tracker a now
  · rw [hnone]
    exact .quiet nofun
  · rw [hrefresh]
    refine .refresh hconn hheld (hcause.imp (repeatsAt_of_assemble ha) ?_)
    exact fun ⟨c, hc, hactive⟩ => ⟨c, acceptsAt_of_assemble ha hc, hactive⟩
  · rw [hpress]
    exact .press hconn (acceptsAt_of_assemble ha hc) hnot

/-- The timeout path. -/
theorem trackerEffect_of_onTimeout (now : Time) (s : State) :
    TrackerEffect s (.tick now) (onTimeout s.tracker now).tracker (onTimeout s.tracker now).events := by
  obtain ⟨hnone, -⟩ | ⟨p, hheld, hpast, hrelease⟩ := onTimeout_cases s.tracker now
  · rw [hnone]
    exact .quiet nofun
  · rw [hrelease]
    exact .release hheld hpast

/-- A response read back has lost none of the events. -/
theorem TrackerEffect.responseEvents_okResponse {s : State} {i : Instr} {t : ButtonTrackerState} {es : List Event}
    (h : TrackerEffect s i t es) (d : ReadData) : responseEvents (okResponse d es) = es := by
  cases h with
  | quiet | poll | refresh => exact responseEvents_okResponse_nil d
  | release => exact responseEvents_okResponse_one d _
  | press hconn hcause hnot =>
    exact Machine.responseEvents_okResponse d (press_transactionEvents _ hnot)

/-- Every transaction has one of these effects, and its response tells the events. -/
theorem exec_trackerEffect {i : Instr} {s t : State} (h : exec i s = .next t) :
    ∃ r, t.responses = s.responses ++ [r] ∧ TrackerEffect s i t.tracker (responseEvents r) := by
  suffices ∃ d es, t.responses = s.responses ++ [okResponse d es] ∧ TrackerEffect s i t.tracker es by
    obtain ⟨d, es, hresp, heffect⟩ := this
    exact ⟨_, hresp, (heffect.responseEvents_okResponse d).symm ▸ heffect⟩
  cases i with
  | nop | connect | current | isPressed => cases h; exact ⟨_, [], rfl, .quiet nofun⟩
  | poll now => cases h; exact ⟨_, [], rfl, .poll now⟩
  | pulse mark space now =>
    obtain ⟨-, rfl⟩ | ⟨hconn, a, ha, rfl⟩ := exec_pulse_cases h
    · exact ⟨_, [], rfl, .quiet nofun⟩
    · exact ⟨_, _, rfl, trackerEffect_of_track now hconn ha⟩
  | tick now =>
    obtain ⟨-, rfl⟩ | ⟨-, rfl⟩ := exec_tick_cases h
    · exact ⟨_, [], rfl, .quiet nofun⟩
    · exact ⟨_, _, rfl, trackerEffect_of_onTimeout now s⟩

/-- The same for the response a statement names. -/
theorem trackerEffect_of_exec {i : Instr} {s t : State} {r : RspWord} (h : exec i s = .next t)
    (hr : t.responses = s.responses ++ [r]) : TrackerEffect s i t.tracker (responseEvents r) := by
  obtain ⟨r', hr', heffect⟩ := exec_trackerEffect h
  cases List.append_cancel_left (hr.symm.trans hr')
  exact heffect

/-! ## Events, the latch and the deadline (spec 43 R147, spec 10 R30, R32) -/

theorem pressed_mem_press_events {t : ButtonTrackerState} {c v : Byte} {now : Time} :
    .pressed v ∈ (press t c now).events ↔ v = c := by
  cases hheld : t.activeCommand with
  | none => simp [press_events_idle t c now hheld]
  | some p => simp [press_events_holding t c p now hheld]

theorem released_mem_press_events {t : ButtonTrackerState} {c p : Byte} {now : Time} :
    .released p ∈ (press t c now).events ↔ t.activeCommand = some p := by
  cases hheld : t.activeCommand with
  | none => simp [press_events_idle t c now hheld]
  | some q => simp [press_events_holding t c q now hheld, eq_comm]

/-- Between transactions at most 31 bits are counted, so the completing pulse is the 32nd (spec 10 R22). -/
theorem AcceptsAt.bitsReceived_eq {d : DecoderState} {x : Nat} {c : Byte} (hinv : DecoderInv d)
    (h : AcceptsAt d x c) : d.bitsReceived = 31#6 := by
  obtain ⟨-, hinv⟩ := hinv
  obtain ⟨hphase, hlow, -, -⟩ := h
  obtain ⟨hhigh, -, -⟩ := hinv hphase
  exact BitVec.eq_of_toNat_eq (le_antisymm hhigh hlow)

/-- The events of a transaction come from a press or from a release past the deadline. -/
theorem TrackerEffect.pressed_cause {s : State} {i : Instr} {t : ButtonTrackerState} {es : List Event} {c : Byte}
    (h : TrackerEffect s i t es) (hc : .pressed c ∈ es) :
    ∃ mark space now, i = .pulse mark space now ∧ s.connected = true ∧ AcceptsAt s.decoder (interval mark space) c ∧
      s.tracker.activeCommand ≠ some c ∧ t = (Machine.press s.tracker c now).tracker := by
  cases h with
  | quiet | poll | refresh | release => simp at hc
  | @press mark space now v hconn hcause hnot =>
    cases pressed_mem_press_events.1 hc
    exact ⟨mark, space, now, rfl, hconn, hcause, hnot, rfl⟩

theorem TrackerEffect.released_cause {s : State} {i : Instr} {t : ButtonTrackerState} {es : List Event} {p : Byte}
    (h : TrackerEffect s i t es) (hp : .released p ∈ es) :
    s.tracker.activeCommand = some p ∧
      ((∃ now, i = .tick now ∧ s.tracker.repeatDeadline.toNat < now.toNat ∧ t.activeCommand = none) ∨
        ∃ c, c ≠ p ∧ .pressed c ∈ es) := by
  cases h with
  | quiet | poll | refresh => simp at hp
  | @release now q hheld hpast =>
    cases List.mem_singleton.1 hp
    exact ⟨hheld, .inl ⟨now, rfl, hpast, rfl⟩⟩
  | @press mark space now c hconn hcause hnot =>
    have hheld := released_mem_press_events.1 hp
    have hne : c ≠ p := fun heq => hnot (heq ▸ hheld)
    exact ⟨hheld, .inr ⟨c, hne, pressed_mem_press_events.2 rfl⟩⟩

/-- The latch is set by every press, cleared by every `POLL`, and written by nothing else. -/
theorem TrackerEffect.hasUnseenPress_iff {s : State} {i : Instr} {t : ButtonTrackerState} {es : List Event}
    (h : TrackerEffect s i t es) :
    t.hasUnseenPress = true ↔
      (∀ now, i ≠ .poll now) ∧ (s.tracker.hasUnseenPress = true ∨ ∃ c, .pressed c ∈ es) := by
  cases h with
  | quiet hpoll => simp [hpoll]
  | poll => simp
  | refresh => simp
  | release => simp
  | @press mark space now c => simp [pressed_mem_press_events]

/-- Settles O41, event by event. -/
theorem eventsComeOnlyFromTheirCauses : Obligations.EventsComeOnlyFromTheirCauses := by
  intro i s t r hinv hexec hr
  have heffect := trackerEffect_of_exec hexec hr
  refine ⟨fun c hc => ?_, fun p hp => heffect.released_cause hp⟩
  obtain ⟨mark, space, now, hi, hconn, hcause, hnot, htracker⟩ := heffect.pressed_cause hc
  have hbits := hcause.bitsReceived_eq hinv
  obtain ⟨hphase, -, hlen, hvalid⟩ := hcause
  refine ⟨mark, space, now, hi, hconn, hphase, hbits, hlen, hvalid, hnot, ?_⟩
  rw [htracker, press_activeCommand]

/-- Settles O42. -/
theorem latchRecordsEveryPress : Obligations.LatchRecordsEveryPress :=
  fun _ _ _ _ hexec hr => (trackerEffect_of_exec hexec hr).hasUnseenPress_iff

/-- The deadline is written by a refresh and by a press alone (spec 10 R32 (d)). -/
theorem TrackerEffect.deadline_cause {s : State} {i : Instr} {t : ButtonTrackerState} {es : List Event}
    (h : TrackerEffect s i t es) (hne : t.repeatDeadline ≠ s.tracker.repeatDeadline) :
    ∃ mark space now, i = .pulse mark space now ∧ s.connected = true ∧ t.repeatDeadline = deadlineFrom now ∧
      ((RepeatsAt s.decoder (interval mark space) ∧ s.tracker.activeCommand ≠ none ∧
          t.activeCommand = s.tracker.activeCommand) ∨
        ∃ c, AcceptsAt s.decoder (interval mark space) c ∧ t.activeCommand = some c) := by
  cases h with
  | quiet | poll | release => exact absurd rfl hne
  | @refresh mark space now hconn hheld hcause =>
    refine ⟨mark, space, now, rfl, hconn, rfl, hcause.imp (fun hrepeat => ⟨hrepeat, hheld, rfl⟩) ?_⟩
    exact fun ⟨c, haccept, hactive⟩ => ⟨c, haccept, hactive⟩
  | @press mark space now c hconn hcause hnot =>
    exact ⟨mark, space, now, rfl, hconn, rfl, .inr ⟨c, hcause, rfl⟩⟩

/-- A `PULSE` after which a command is newly held has pressed it. -/
theorem TrackerEffect.deadline_of_press {s : State} {mark space : Duration} {now : Time} {t : ButtonTrackerState}
    {es : List Event} {c : Byte} (h : TrackerEffect s (.pulse mark space now) t es)
    (hafter : t.activeCommand = some c) (hbefore : s.tracker.activeCommand ≠ some c) :
    t.repeatDeadline = deadlineFrom now := by
  cases h with
  | quiet => exact absurd hafter hbefore
  | refresh | press => rfl

/-- Settles O43: the causes of the effects that write the deadline; under the decoder invariant the accepting pulse is
the 32nd. -/
theorem deadlineIsWrittenOnlyByPressOrRefresh : Obligations.DeadlineIsWrittenOnlyByPressOrRefresh := by
  intro i s t hexec
  obtain ⟨r, -, heffect⟩ := exec_trackerEffect hexec
  refine ⟨fun hne => ?_, ?_⟩
  · obtain ⟨mark, space, now, hi, hconn, hdeadline, hcause⟩ := heffect.deadline_cause hne
    have hexact : t.tracker.repeatDeadline.toNat = now.toNat + 120 := hdeadline ▸ deadlineFrom_toNat_eq_hold now
    refine ⟨mark, space, now, hi, hconn, hexact, ?_, fun hinv => ?_⟩
    · obtain ⟨-, hheld, hsame⟩ | ⟨c, -, hc⟩ := hcause
      · exact hsame ▸ hheld
      · simp [hc]
    · obtain ⟨⟨hphase, hlow, hhigh⟩, hheld, hsame⟩ | ⟨c, haccept, hc⟩ := hcause
      · exact .inl ⟨hphase, hlow, hhigh, hheld, hsame⟩
      · have hbits := haccept.bitsReceived_eq hinv
        obtain ⟨hphase, -, hlen, hvalid⟩ := haccept
        exact .inr ⟨c, hphase, hbits, hlen, hvalid, hc⟩
  · rintro c mark space now rfl hafter hbefore
    rw [heffect.deadline_of_press hafter hbefore]
    exact deadlineFrom_toNat_eq_hold now

/-! ## From transactions to steps (spec 20 R55) -/

/-- What the reception of a word, its rejection and every transaction keep, every step keeps. -/
theorem step_keeps {P : State → Prop} (hpending : ∀ s ws, P s → P { s with pending := ws })
    (hillegal : ∀ s, P s → P s.respondIllegal) (hexec : ∀ i s t, P s → exec i s = .next t → P t)
    (s t : State) (h : P s) (hstep : step s = .next t) : P t := by
  cases hwords : s.pending with
  | nil => cases (step_of_no_pending hwords).symm.trans hstep; exact h
  | cons w ws =>
    rw [step_of_pending hwords] at hstep
    cases hdec : decode w with
    | instr i => exact hexec i _ t (hpending s ws h) ((transact_of_instr hdec _).symm.trans hstep)
    | reject r => cases (transact_of_reject hdec _).symm.trans hstep; exact hillegal _ (hpending s ws h)

/-! ## The decoder invariant (spec 10 R25, R22) -/

theorem decoderInv_initial : DecoderInv .initial :=
  ⟨fun _ => ⟨rfl, rfl, rfl⟩, nofun⟩

/-- One more bit doubles the bound of an accumulator. -/
theorem shl8_toNat_lt {acc : Byte} {k : Nat} (b : Bool) (h : acc.toNat < 2 ^ k) :
    (shl8 acc b).toNat < 2 ^ (k + 1) := by
  rw [shl8_eq_ofNat, BitVec.toNat_ofNat, Nat.pow_succ]
  have hmod := Nat.mod_le (2 * acc.toNat + b.toNat) (2 ^ 8)
  have hb := b.toNat_lt
  omega

/-- A decoder in a frame meets the invariant when its accumulators are bounded by the bits shifted in so far. -/
theorem decoderInv_of_bounds {d : DecoderState} {n j k : Nat} (hphase : d.phase = .accumulatingBits)
    (hcount : d.bitsReceived.toNat = n) (hn : n ≤ 31) (hcommand : d.commandBits.toNat < 2 ^ j)
    (hj : j ≤ min n 24 - 16) (hinverse : d.inverseCommandBits.toNat < 2 ^ k) (hk : k ≤ n - 24) : DecoderInv d := by
  subst hcount
  refine ⟨fun hawait => absurd (hphase.symm.trans hawait) nofun, fun _ => ⟨hn, ?_, ?_⟩⟩
  · exact hcommand.trans_le (Nat.pow_le_pow_right Nat.two_pos hj)
  · exact hinverse.trans_le (Nat.pow_le_pow_right Nat.two_pos hk)

theorem toNat_ofNat_six_of_le {n : Nat} (h : n ≤ 31) : (BitVec.ofNat 6 n).toNat = n := by
  rw [BitVec.toNat_ofNat]
  omega

/-- A frame bit keeps the invariant, range by range of its number (spec 41 R114 to R117). -/
theorem decoderInv_assembleBit {d : DecoderState} (b : Bool) (hphase : d.phase = .accumulatingBits)
    (h : DecoderInv d) : DecoderInv (assembleBit d b).decoder := by
  obtain ⟨-, haccum⟩ := h
  obtain ⟨-, hcommand, hinverse⟩ := haccum hphase
  obtain hn | ⟨hlow, hhigh⟩ | ⟨hlow, hhigh⟩ | hlast :
      d.bitsReceived.toNat + 1 ≤ 16 ∨ (17 ≤ d.bitsReceived.toNat + 1 ∧ d.bitsReceived.toNat + 1 ≤ 24) ∨
        (25 ≤ d.bitsReceived.toNat + 1 ∧ d.bitsReceived.toNat + 1 ≤ 31) ∨ 32 ≤ d.bitsReceived.toNat + 1 := by omega
  · rw [assembleBit_address d b hn]
    exact decoderInv_of_bounds hphase (toNat_ofNat_six_of_le (by omega)) (by omega) hcommand (by omega) hinverse
      (by omega)
  · rw [assembleBit_command d b hlow hhigh]
    exact decoderInv_of_bounds hphase (toNat_ofNat_six_of_le (by omega)) (by omega) (shl8_toNat_lt b hcommand)
      (by omega) hinverse (by omega)
  · rw [assembleBit_inverse d b hlow hhigh]
    exact decoderInv_of_bounds hphase (toNat_ofNat_six_of_le hhigh) hhigh hcommand (by omega)
      (shl8_toNat_lt b hinverse) (by omega)
  · rw [assembleBit_last d b hlast]
    exact decoderInv_initial

/-- Whatever the assembler answers keeps the invariant. -/
theorem decoderInv_assemble {d : DecoderState} {y : Symbol} {a : Assembled} (h : DecoderInv d)
    (ha : assemble d y = some a) : DecoderInv a.decoder := by
  obtain ⟨hphase, hawait⟩ | ⟨hphase, haccum⟩ := assemble_cases ha
  · obtain ⟨-, rfl⟩ | ⟨-, rfl⟩ | ⟨-, rfl⟩ := hawait
    · exact h
    · exact h
    · obtain ⟨hawait, -⟩ := h
      obtain ⟨hbits, hcommand, hinverse⟩ := hawait hphase
      exact decoderInv_of_bounds (n := 0) (j := 0) (k := 0) rfl (by simp [hbits]) (by omega) (by simp [hcommand])
        (by omega) (by simp [hinverse]) (by omega)
  · obtain ⟨-, rfl⟩ | ⟨-, rfl⟩ | ⟨-, rfl⟩ := haccum
    · exact decoderInv_assembleBit false hphase h
    · exact decoderInv_assembleBit true hphase h
    · exact decoderInv_initial

/-- Only a `PULSE` writes the decoder (spec 10 R41). -/
theorem exec_decoder_of_not_pulse {i : Instr} {s t : State} (hi : isPulse i = false) (h : exec i s = .next t) :
    t.decoder = s.decoder := by
  cases i with
  | pulse => cases hi
  | nop | connect | poll | current | isPressed => cases h; rfl
  | tick now =>
    obtain ⟨-, hdecoder, -⟩ := exec_tick_frame h
    exact hdecoder

theorem decoderInv_exec (i : Instr) (s t : State) (hinv : DecoderInv s.decoder) (h : exec i s = .next t) :
    DecoderInv t.decoder := by
  cases i with
  | nop | connect | poll | current | isPressed | tick => exact (exec_decoder_of_not_pulse rfl h).symm ▸ hinv
  | pulse mark space now =>
    obtain ⟨-, rfl⟩ | ⟨-, a, ha, rfl⟩ := exec_pulse_cases h
    · exact hinv
    · exact decoderInv_assemble hinv ha

/-- Settles O44: only a `PULSE` reaches the decoder, and the assembler keeps its invariant. -/
theorem decoderInvariantIsKept : Obligations.DecoderInvariantIsKept :=
  step_keeps (P := fun s => DecoderInv s.decoder) (fun _ _ => id) (fun _ => id) decoderInv_exec

/-! ## The tracker invariants (spec 10 R32) -/

/-- What R32 (a) and (b) say of the tracker's own registers. -/
def TrackerRegistersInv (t : ButtonTrackerState) : Prop :=
  (∀ c, t.activeCommand = some c → t.lastCommand = some c) ∧
  (t.lastCommand = none → t.activeCommand = none ∧ t.hasUnseenPress = false)

theorem trackerInv_iff (s : State) :
    TrackerInv s ↔ TrackerRegistersInv s.tracker ∧
      (s.connected = false → s.decoder = State.reset.decoder ∧ s.tracker = State.reset.tracker) :=
  and_assoc.symm

/-- Every effect on the tracker keeps (a) and (b). -/
theorem TrackerEffect.keeps_registersInv {s : State} {i : Instr} {t : ButtonTrackerState} {es : List Event}
    (h : TrackerEffect s i t es) (hinv : TrackerRegistersInv s.tracker) : TrackerRegistersInv t := by
  obtain ⟨hlast, hnone⟩ := hinv
  cases h with
  | quiet => exact ⟨hlast, hnone⟩
  | poll => exact ⟨hlast, fun hn => (hnone hn).imp id fun _ => rfl⟩
  | refresh => exact ⟨hlast, hnone⟩
  | press => exact ⟨fun _ hc => hc, nofun⟩
  | release => exact ⟨nofun, fun hn => (hnone hn).imp (fun _ => rfl) id⟩

/-- While not connected, the registers of both groups keep their reset values (spec 10 R32 (c)). -/
theorem exec_disconnected_keeps_reset {i : Instr} {s t : State} (h : exec i s = .next t)
    (hdisc : t.connected = false) (hreset : s.decoder = State.reset.decoder ∧ s.tracker = State.reset.tracker) :
    t.decoder = State.reset.decoder ∧ t.tracker = State.reset.tracker := by
  cases i with
  | nop | current | isPressed => cases h; exact hreset
  | connect => cases h; cases hdisc
  | poll =>
    obtain ⟨hdecoder, htracker⟩ := hreset
    cases h
    exact ⟨hdecoder, congrArg ButtonTrackerState.clearUnseen htracker⟩
  | pulse mark space now =>
    obtain ⟨-, rfl⟩ | ⟨hconn, a, -, rfl⟩ := exec_pulse_cases h
    · exact hreset
    · cases hconn.symm.trans hdisc
  | tick now =>
    obtain ⟨-, rfl⟩ | ⟨hconn, rfl⟩ := exec_tick_cases h
    · exact hreset
    · cases hconn.symm.trans hdisc

theorem trackerInv_exec (i : Instr) (s t : State) (hinv : TrackerInv s) (h : exec i s = .next t) : TrackerInv t := by
  rw [trackerInv_iff] at hinv ⊢
  obtain ⟨hregs, hreset⟩ := hinv
  obtain ⟨r, -, heffect⟩ := exec_trackerEffect h
  refine ⟨heffect.keeps_registersInv hregs, fun hdisc => exec_disconnected_keeps_reset h hdisc (hreset ?_)⟩
  exact Bool.eq_false_of_not_eq_true fun hconn => by cases (exec_keeps_connected hconn h).symm.trans hdisc

/-- Settles O45: the effects on the tracker keep (a) and (b), and (c) holds because the control bit stays set. -/
theorem trackerInvariantIsKept : Obligations.TrackerInvariantIsKept :=
  step_keeps (fun _ _ => id) (fun _ => id) trackerInv_exec

/-! ## The alternation of presses and releases (spec 43 R147 (a)) -/

/-- Following a history and then its continuation is following both. -/
theorem heldAfter_append (held : Option Byte) (es fs : List Event) :
    heldAfter held (es ++ fs) = (heldAfter held es).bind (heldAfter · fs) := by
  induction es generalizing held with
  | nil => rfl
  | cons e es ih =>
    cases held with
    | none =>
      cases e with
      | pressed c => exact ih (some c)
      | released c => rfl
    | some p =>
      cases e with
      | pressed c => rfl
      | released c =>
        simp only [List.cons_append, heldAfter]
        split_ifs
        · exact ih none
        · rfl

@[simp] theorem eventsOf_append (rs rs' : List RspWord) : eventsOf (rs ++ rs') = eventsOf rs ++ eventsOf rs' :=
  List.flatMap_append

@[simp] theorem eventsOf_cons (r : RspWord) (rs : List RspWord) :
    eventsOf (r :: rs) = responseEvents r ++ eventsOf rs := rfl

@[simp] theorem eventsOf_nil : eventsOf [] = [] := rfl

/-- The events of a transaction lead from the command held before it to the command held after it. -/
theorem TrackerEffect.heldAfter_eq {s : State} {i : Instr} {t : ButtonTrackerState} {es : List Event}
    (h : TrackerEffect s i t es) : heldAfter s.tracker.activeCommand es = some t.activeCommand := by
  cases h with
  | quiet | poll | refresh => exact heldAfter.eq_1 _
  | release hheld => simp [hheld, heldAfter]
  | @press mark space now c =>
    cases hheld : s.tracker.activeCommand with
    | none => simp [press_events_idle _ _ _ hheld, heldAfter]
    | some p => simp [press_events_holding _ _ _ _ hheld, heldAfter]

theorem eventsInv_exec (i : Instr) (s t : State) (hinv : EventsInv s) (h : exec i s = .next t) : EventsInv t := by
  obtain ⟨r, hresp, heffect⟩ := exec_trackerEffect h
  unfold EventsInv at hinv ⊢
  rw [hresp, eventsOf_append, heldAfter_append, hinv]
  simpa using heffect.heldAfter_eq

/-- The response to an illegal word holds no event. -/
theorem eventsInv_respondIllegal (s : State) (hinv : EventsInv s) : EventsInv s.respondIllegal := by
  unfold EventsInv at hinv ⊢
  rw [State.respondIllegal_responses, eventsOf_append, eventsOf_cons, responseEvents_illegalResponse, eventsOf_nil,
    List.append_nil, List.append_nil, hinv, State.respondIllegal_tracker]

/-- Settles O46: the history so far ends at the held command, from which the events of one more response go on. -/
theorem eventAlternationIsKept : Obligations.EventAlternationIsKept :=
  step_keeps (fun _ _ => id) eventsInv_respondIllegal eventsInv_exec

/-- Settles O47: the registers by their reset values, the events because there are none. -/
theorem invariantsHoldAtReset : Obligations.InvariantsHoldAtReset :=
  ⟨decoderInv_initial, ⟨nofun, fun _ => ⟨rfl, rfl⟩, fun _ => ⟨rfl, rfl⟩⟩, rfl⟩

end Sys2Proof.Machine

/-!
PROOFS. The pulses that tell the tracker nothing (spec 41 R111, R113 to R116), the validator's corner cases (spec 42
section 1), and the allow-list as an open set of 17 bytes (spec 42 R133).
-/

namespace Sys2Proof.Machine

/-! ## Pulses without a result for the tracker (spec 41 R111, R113 to R116) -/

/-- The state after `n` transactions that left the decoder at `d`, wrote nothing else and emitted nothing. -/
def State.afterQuiet (s : State) (n : Nat) (d : DecoderState) : State :=
  { s with decoder := d, responses := s.responses ++ List.replicate n quietRsp }

/-- An incomplete frame that is no repeat signal goes no further than the decoder (spec 44 R163). -/
theorem exec_pulse_incomplete {mark space : Duration} {s : State} {d : DecoderState} (now : Time)
    (hconn : s.connected = true)
    (ha : assemble s.decoder (classify s.decoder.phase (interval mark space)) =
      some { decoder := d, result := .incomplete, repeated := false }) :
    exec (.pulse mark space now) s = .next (s.afterQuiet 1 d) := by
  rw [exec_pulse_of_assemble hconn ha, State.afterQuiet, ← okResponse_quiet]
  rfl

/-- A pulse outside the repeat and start windows leaves the awaiting decoder (spec 41 R111). -/
theorem exec_noisePulse {mark space : Duration} {s : State} (now : Time) (hconn : s.connected = true)
    (hphase : s.decoder.phase = .awaitingStartOrRepeat)
    (hnoise : interval mark space < 10000 ∨ 14500 ≤ interval mark space) :
    exec (.pulse mark space now) s = .next (s.afterQuiet 1 s.decoder) := by
  obtain ⟨hnone, -, -⟩ := classify_awaiting_iff (interval mark space)
  refine exec_pulse_incomplete now hconn ?_
  rw [hphase, hnone.2 hnoise]
  simp [assemble, hphase]

/-- A pulse in the start window opens a frame (spec 41 R113). -/
theorem exec_startPulse {mark space : Duration} {s : State} (now : Time) (hconn : s.connected = true)
    (hphase : s.decoder.phase = .awaitingStartOrRepeat) (hlow : 12500 ≤ interval mark space)
    (hhigh : interval mark space < 14500) :
    exec (.pulse mark space now) s = .next (s.afterQuiet 1 { s.decoder with phase := .accumulatingBits }) := by
  obtain ⟨-, -, hstart⟩ := classify_awaiting_iff (interval mark space)
  refine exec_pulse_incomplete now hconn ?_
  rw [hphase, hstart.2 ⟨hlow, hhigh⟩]
  simp [assemble, hphase]

/-- A bit-length pulse, in a frame, is assembled as its bit; before the 32nd, that is all (spec 41 R114 to R116). -/
theorem exec_bitPulse {mark space : Duration} {s : State} {d : DecoderState} (now : Time)
    (hconn : s.connected = true) (hphase : s.decoder.phase = .accumulatingBits) (hlen : interval mark space < 2700)
    (hbit : assembleBit s.decoder (decide (1600 ≤ interval mark space)) =
      { decoder := d, result := .incomplete, repeated := false }) :
    exec (.pulse mark space now) s = .next (s.afterQuiet 1 d) :=
  exec_pulse_incomplete now hconn ((assemble_classify_bit hphase hlen).trans (congrArg some hbit))

/-- Settles O22. -/
theorem noiseWhileAwaitingChangesNothing : Obligations.NoiseWhileAwaitingChangesNothing :=
  fun _ _ now _ => exec_noisePulse now

/-- Settles O24. -/
theorem startPulseOpensAFrame : Obligations.StartPulseOpensAFrame :=
  fun _ _ now _ => exec_startPulse now

/-- Settles O25. -/
theorem addressBitsAreCountedAndDropped : Obligations.AddressBitsAreCountedAndDropped :=
  fun _ _ now s hconn hphase hlen hn => exec_bitPulse now hconn hphase hlen (assembleBit_address s.decoder _ hn)

/-- Settles O26: the shift of the pulse's bit is the formula on naturals. -/
theorem commandBitsAreShiftedIn : Obligations.CommandBitsAreShiftedIn := by
  intro mark space now s hconn hphase hlen hlow hhigh
  have hshift := shl8_pulseBit s.decoder.commandBits (mark.toNat + space.toNat)
  rw [← hshift]
  exact exec_bitPulse now hconn hphase hlen (assembleBit_command s.decoder _ hlow hhigh)

/-- Settles O27: the shift of the pulse's bit is the formula on naturals. -/
theorem inverseBitsAreShiftedIn : Obligations.InverseBitsAreShiftedIn := by
  intro mark space now s hconn hphase hlen hlow hhigh
  have hshift := shl8_pulseBit s.decoder.inverseCommandBits (mark.toNat + space.toNat)
  rw [← hshift]
  exact exec_bitPulse now hconn hphase hlen (assembleBit_inverse s.decoder _ hlow hhigh)

/-! ## The validator's corner cases (spec 42 section 1) -/

section

variable {command inverse : Byte} {known : List Byte}

/-- The validator's answer, test by test. -/
theorem validate_cases (command inverse : Byte) (known : List Byte) :
    ((command = ~~~inverse ∨ command ∈ known) ∧ validate command inverse known = some command) ∨
    ((command ≠ ~~~inverse ∧ command ∉ known) ∧ ~~~inverse ∈ known ∧
      validate command inverse known = some (~~~inverse)) ∨
    ((command ≠ ~~~inverse ∧ command ∉ known) ∧ ~~~inverse ∉ known ∧ validate command inverse known = none) := by
  by_cases hcompl : command = ~~~inverse
  · exact .inl ⟨.inl hcompl, validate_of_complement hcompl⟩
  by_cases hcommand : command ∈ known
  · exact .inl ⟨.inr hcommand, validate_of_mem hcommand⟩
  by_cases hcontrol : ~~~inverse ∈ known
  · exact .inr (.inl ⟨⟨hcompl, hcommand⟩, hcontrol, validate_of_not_mem_of_mem hcompl hcommand hcontrol⟩)
  · exact .inr (.inr ⟨⟨hcompl, hcommand⟩, hcontrol, validate_eq_none hcompl hcommand hcontrol⟩)

/-- A correct frame is accepted whatever the allow-list. -/
theorem validate_own_complement (command : Byte) (known : List Byte) :
    validate command (command ^^^ 0xFF#8) known = some command :=
  validate_of_complement (by rw [xor_ff_eq_not, BitVec.not_not])

theorem eq_or_eq_of_validate {v : Byte} (h : validate command inverse known = some v) :
    v = command ∨ v = ~~~inverse := by
  obtain ⟨-, hv⟩ | ⟨-, -, hv⟩ | ⟨-, -, hv⟩ := validate_cases command inverse known
  · exact .inl (Option.some.inj (h.symm.trans hv))
  · exact .inr (Option.some.inj (h.symm.trans hv))
  · cases h.symm.trans hv

theorem validate_eq_none_iff :
    validate command inverse known = none ↔ command ≠ ~~~inverse ∧ command ∉ known ∧ ~~~inverse ∉ known := by
  refine ⟨fun h => ?_, fun ⟨hcompl, hcommand, hcontrol⟩ => validate_eq_none hcompl hcommand hcontrol⟩
  obtain ⟨-, hv⟩ | ⟨-, -, hv⟩ | ⟨⟨hcompl, hcommand⟩, hcontrol, -⟩ := validate_cases command inverse known
  · cases h.symm.trans hv
  · cases h.symm.trans hv
  · exact ⟨hcompl, hcommand, hcontrol⟩

/-- With an empty allow-list the complement test decides alone. -/
theorem validate_nil_isSome_iff : (validate command inverse []).isSome = true ↔ command = ~~~inverse := by
  rw [Option.isSome_iff_ne_none, Ne, validate_eq_none_iff]
  simp

end

/-- Settles O36: the five corner cases follow from the four tests. -/
theorem validatorCornerCases : Obligations.ValidatorCornerCases := by
  refine ⟨validate_own_complement, fun _ i _ _ => ?_, fun _ i _ => ?_, fun _ i => ?_,
    fun c _ _ hfull => validate_of_mem (hfull c)⟩
  all_goals rw [xor_ff_eq_not i]
  · exact eq_or_eq_of_validate
  · exact validate_eq_none_iff
  · exact validate_nil_isSome_iff

/-! ## The allow-list (spec 42 R133) -/

/-- The first 17 bytes of the numbering, each once. -/
def firstBytes : Fin Config.knownCount ↪ Byte where
  toFun k := BitVec.ofNat 8 k
  inj' := by decide

theorem known_eq_map_order :
    Config.known = (List.range Config.knownCount).map fun k => Config.knownOrder (BitVec.ofNat 8 k) := rfl

theorem known_nodup : Config.known.Nodup := by
  rw [known_eq_map_order]
  refine List.Nodup.map_on (fun j hj k hk heq => ?_) List.nodup_range
  have hbytes : firstBytes ⟨j, List.mem_range.1 hj⟩ = firstBytes ⟨k, List.mem_range.1 hk⟩ :=
    Config.knownOrder.injective heq
  exact Fin.mk.inj (firstBytes.injective hbytes)

/-- Any 17 distinct bytes come first in some order of all of them: the orders act on the bytes so transitively that
they take the first 17 to any others. -/
theorem exists_order_of_nodup {l : List Byte} (hlen : l.length = Config.knownCount) (hnodup : l.Nodup) :
    ∃ order : Equiv.Perm Byte, l = (List.range Config.knownCount).map fun k => order (BitVec.ofNat 8 k) := by
  have hinj : Function.Injective (l.get ∘ Fin.cast hlen.symm) :=
    (List.nodup_iff_injective_get.1 hnodup).comp (Fin.cast_injective hlen.symm)
  obtain ⟨order, horder⟩ :=
    (Equiv.Perm.isMultiplyPretransitive Byte Config.knownCount).exists_smul_eq firstBytes ⟨_, hinj⟩
  refine ⟨order, List.ext_getElem (by simp [hlen]) fun k hk hk' => ?_⟩
  have hbyte := DFunLike.congr_fun horder ⟨k, hlen ▸ hk⟩
  simpa [firstBytes] using hbyte.symm

/-- Settles O37. -/
theorem knownIsAnySetOfSeventeenBytes : Obligations.KnownIsAnySetOfSeventeenBytes :=
  ⟨⟨by rw [known_eq_map_order, List.length_map, List.length_range]; rfl, known_nodup⟩,
    fun _ hlen hnodup => exists_order_of_nodup hlen hnodup⟩

end Sys2Proof.Machine

/-!
PROOFS. Runs (spec 20 R58): what keeps a run quiet, the tail of an aborted frame (spec 60 R201), any 32 frame bits (spec
41 section 2) and the round trip of a correct frame (spec 95 section 1, S2).
-/

namespace Sys2Proof.Machine

/-! ## Runs in parts (spec 20 R58) -/

/-- The first transaction of a completed run has completed. -/
theorem exec_of_runAll_cons {i : Instr} {is : List Instr} {s t : State} (h : runAll (i :: is) s = .next t) :
    ∃ u, exec i s = .next u ∧ runAll is u = .next t := by
  obtain ⟨u, hu⟩ := exec_completes i s
  exact ⟨u, hu, (runAll_cons_of_next hu).symm.trans h⟩

/-- The first part of a run has completed, and the rest runs on its last state. -/
theorem runAll_append_of_next {is : List Instr} {s t : State} (h : runAll is s = .next t) (js : List Instr) :
    runAll (is ++ js) s = runAll js t := by
  induction is generalizing s with
  | nil => cases h; rfl
  | cons i is ih =>
    obtain ⟨u, hu, hrest⟩ := exec_of_runAll_cons h
    exact (runAll_cons_of_next hu).trans (ih hrest)

theorem runAll_completes (is : List Instr) (s : State) : ∃ t, runAll is s = .next t := by
  induction is generalizing s with
  | nil => exact ⟨s, rfl⟩
  | cons i is ih =>
    obtain ⟨u, hu⟩ := exec_completes i s
    obtain ⟨t, ht⟩ := ih u
    exact ⟨t, (runAll_cons_of_next hu).trans ht⟩

/-! ## Quiet runs -/

@[simp] theorem State.afterQuiet_connected (s : State) (n : Nat) (d : DecoderState) :
    (s.afterQuiet n d).connected = s.connected := rfl
@[simp] theorem State.afterQuiet_decoder (s : State) (n : Nat) (d : DecoderState) :
    (s.afterQuiet n d).decoder = d := rfl
@[simp] theorem State.afterQuiet_tracker (s : State) (n : Nat) (d : DecoderState) :
    (s.afterQuiet n d).tracker = s.tracker := rfl
@[simp] theorem State.afterQuiet_pending (s : State) (n : Nat) (d : DecoderState) :
    (s.afterQuiet n d).pending = s.pending := rfl
@[simp] theorem State.afterQuiet_responses (s : State) (n : Nat) (d : DecoderState) :
    (s.afterQuiet n d).responses = s.responses ++ List.replicate n quietRsp := rfl

@[simp] theorem State.afterQuiet_zero (s : State) : s.afterQuiet 0 s.decoder = s := by
  simp [State.afterQuiet]

/-- Quiet transactions add up. -/
@[simp] theorem State.afterQuiet_afterQuiet (s : State) (m n : Nat) (d e : DecoderState) :
    (s.afterQuiet m d).afterQuiet n e = s.afterQuiet (m + n) e := by
  simp only [State.afterQuiet, List.append_assoc, List.replicate_append_replicate]

/-- Transactions that are quiet in every state with these registers keep a run quiet. -/
theorem runAll_unchanging {is : List Instr} {s : State}
    (h : ∀ i ∈ is, ∀ u : State, u.connected = s.connected → u.decoder = s.decoder → u.tracker = s.tracker →
      exec i u = .next (u.afterQuiet 1 u.decoder)) :
    runAll is s = .next (s.afterQuiet is.length s.decoder) := by
  induction is generalizing s with
  | nil => exact congrArg Host.Outcome.next s.afterQuiet_zero.symm
  | cons i is ih =>
    have hrest := ih (s := s.afterQuiet 1 s.decoder) fun j hj => h j (List.mem_cons_of_mem i hj)
    rw [runAll_cons_of_next (h i List.mem_cons_self s rfl rfl rfl), hrest, State.afterQuiet_decoder,
      State.afterQuiet_afterQuiet, List.length_cons, Nat.add_comm]

/-! ## After an abort (spec 60 R201) -/

/-- Settles O56: the abort leaves the decoder awaiting a start, and there the pulses of the tail are noise. -/
theorem tailOfAnAbortedFrameIsIgnored : Obligations.TailOfAnAbortedFrameIsIgnored := by
  intro first tail s hconn hphase hlong hshort
  have habort : exec first.txn s = .next (s.afterQuiet 1 .initial) := exec_abort first.now hconn hphase hlong
  have htail : runAll (tail.map RawPulse.txn) (s.afterQuiet 1 .initial) =
      .next ((s.afterQuiet 1 .initial).afterQuiet (tail.map RawPulse.txn).length .initial) := by
    refine runAll_unchanging fun i hi u huconn hudecoder _ => ?_
    obtain ⟨p, hp, rfl⟩ := List.mem_map.1 hi
    exact exec_noisePulse p.now (huconn.trans hconn) (by rw [hudecoder]; rfl) (.inl (hshort p hp))
  rw [List.map_cons, runAll_cons_of_next habort, htail, State.afterQuiet_afterQuiet, List.length_map, Nat.add_comm]
  rfl

/-! ## The bits of a frame (spec 30 R82, spec 20 R51) -/

/-- One more bit, at the lower end. -/
theorem byteOfBits_append_bit (bs : List Bool) (b : Bool) : byteOfBits (bs ++ [b]) = shl8 (byteOfBits bs) b := by
  rw [shl8_eq_ofNat]
  apply BitVec.eq_of_toNat_eq
  simp only [byteOfBits, List.foldl_append, List.foldl_cons, List.foldl_nil, BitVec.toNat_ofNat]
  omega

/-- The decoder when these bits of a frame have come, fewer than 32: bits 17 to 24 make the command byte and bits 25 on
the inverse byte. -/
def frameDecoder (bits : List Bool) : DecoderState :=
  { phase := .accumulatingBits
    bitsReceived := BitVec.ofNat 6 bits.length
    commandBits := byteOfBits ((bits.drop 16).take 8)
    inverseCommandBits := byteOfBits (bits.drop 24) }

section

variable {bits : List Bool}

theorem frameDecoder_count (h : bits.length ≤ 31) : (frameDecoder bits).bitsReceived.toNat = bits.length :=
  toNat_ofNat_six_of_le h

theorem drop_append_bit_of_lt {n : Nat} (b : Bool) (h : bits.length < n) : (bits ++ [b]).drop n = bits.drop n := by
  rw [List.drop_eq_nil_of_le h.le, List.drop_eq_nil_of_le (by simpa using h)]

theorem drop_append_bit_of_le {n : Nat} (b : Bool) (h : n ≤ bits.length) :
    (bits ++ [b]).drop n = bits.drop n ++ [b] :=
  List.drop_append_of_le_length h

/-- A bit assembled is one more bit of the frame (spec 41 R114 to R116). -/
theorem assembleBit_frameDecoder (b : Bool) (h : bits.length + 1 ≤ 31) :
    assembleBit (frameDecoder bits) b =
      { decoder := frameDecoder (bits ++ [b]), result := .incomplete, repeated := false } := by
  have hcount := frameDecoder_count (bits := bits) (by omega)
  have hlength : bits.length + 1 = (bits ++ [b]).length := by simp
  obtain hn | ⟨hlow, hhigh⟩ | hlow :
      bits.length + 1 ≤ 16 ∨ (17 ≤ bits.length + 1 ∧ bits.length + 1 ≤ 24) ∨ 25 ≤ bits.length + 1 := by omega
  · have hcommand := drop_append_bit_of_lt b (show bits.length < 16 by omega)
    have hinverse := drop_append_bit_of_lt b (show bits.length < 24 by omega)
    rw [assembleBit_address _ _ (by omega), hcount, hlength]
    simp only [frameDecoder, hcommand, hinverse]
  · have hcommand : ((bits ++ [b]).drop 16).take 8 = (bits.drop 16).take 8 ++ [b] := by
      rw [drop_append_bit_of_le b (by omega), List.take_of_length_le, List.take_of_length_le] <;> simp <;> omega
    have hinverse := drop_append_bit_of_lt b (show bits.length < 24 by omega)
    rw [assembleBit_command _ _ (by omega) (by omega), hcount, hlength]
    simp only [frameDecoder, hcommand, hinverse, byteOfBits_append_bit]
  · have hcommand : ((bits ++ [b]).drop 16).take 8 = (bits.drop 16).take 8 := by
      rw [drop_append_bit_of_le b (by omega), List.take_append_of_le_length]
      simp
      omega
    have hinverse := drop_append_bit_of_le b (show 24 ≤ bits.length by omega)
    rw [assembleBit_inverse _ _ (by omega) (by omega), hcount, hlength]
    simp only [frameDecoder, hcommand, hinverse, byteOfBits_append_bit]

end

/-- Pulses of bit length are collected, as long as they are fewer than 32. -/
theorem runAll_frameBits {ps : List RawPulse} {bits : List Bool} {s : State} (hconn : s.connected = true)
    (hdecoder : s.decoder = frameDecoder bits) (hlength : bits.length + ps.length ≤ 31)
    (hlen : ∀ p ∈ ps, p.length < 2700) :
    runAll (ps.map RawPulse.txn) s =
      .next (s.afterQuiet ps.length (frameDecoder (bits ++ ps.map RawPulse.bit))) := by
  induction ps generalizing bits s with
  | nil =>
    rw [List.map_nil, List.map_nil, List.append_nil, ← hdecoder]
    exact congrArg Host.Outcome.next s.afterQuiet_zero.symm
  | cons p ps ih =>
    rw [List.length_cons] at hlength
    have hbit : exec p.txn s = .next (s.afterQuiet 1 (frameDecoder (bits ++ [p.bit]))) :=
      exec_bitPulse p.now hconn (by rw [hdecoder]; rfl) (hlen p List.mem_cons_self)
        (by rw [hdecoder]; exact assembleBit_frameDecoder p.bit (by omega))
    have hrest := ih (s := s.afterQuiet 1 (frameDecoder (bits ++ [p.bit]))) hconn rfl
      (by rw [List.length_append, List.length_singleton]; omega) fun q hq => hlen q (List.mem_cons_of_mem p hq)
    rw [List.map_cons, runAll_cons_of_next hbit, hrest, State.afterQuiet_afterQuiet, List.append_assoc,
      List.length_cons, Nat.add_comm]
    rfl

/-- What the validator's answer is for the tracker (spec 41 R117). -/
def answeredResult : Option Byte → FrameResult
  | some c => .command c
  | none => .decodeFailed

theorem assembleLastBit_result (d : DecoderState) (b : Bool) :
    (assembleLastBit d b).result =
      answeredResult (validate d.commandBits (shl8 d.inverseCommandBits b) Config.known) := by
  cases hvalid : validate d.commandBits (shl8 d.inverseCommandBits b) Config.known with
  | some c => exact assembleLastBit_accepted d b c hvalid
  | none => exact assembleLastBit_rejected d b hvalid

/-- The validator's question about 32 frame bits: bits 17 to 24, and bits 25 to 32. -/
def frameAnswer (bits : List Bool) : Option Byte :=
  validate (byteOfBits ((bits.drop 16).take 8)) (byteOfBits (bits.drop 24)) Config.known

/-- The 32nd bit puts that question, with the 31 bits collected before it. -/
theorem frameDecoder_lastResult {bits : List Bool} (b : Bool) (h : bits.length = 31) :
    (assembleLastBit (frameDecoder bits) b).result = answeredResult (frameAnswer (bits ++ [b])) := by
  have hcommand : ((bits ++ [b]).drop 16).take 8 = (bits.drop 16).take 8 := by
    rw [drop_append_bit_of_le b (by omega), List.take_append_of_le_length (by simp [h])]
  rw [assembleLastBit_result, frameAnswer, hcommand, drop_append_bit_of_le b (by omega), byteOfBits_append_bit]
  rfl

/-- 31 pulses are collected, and the 32nd hands the answer to the tracker with its own clock. -/
theorem runAll_frame {ps : List RawPulse} {last : RawPulse} {s : State} {tracked : Tracked}
    (hlength : ps.length = 31) (hlen : ∀ p ∈ ps ++ [last], p.length < 2700) (hconn : s.connected = true)
    (hdecoder : s.decoder = frameDecoder [])
    (htracked : track s.tracker
      { decoder := .initial
        result := answeredResult (frameAnswer ((ps ++ [last]).map RawPulse.bit))
        repeated := false } last.now = tracked) :
    runAll ((ps ++ [last]).map RawPulse.txn) s =
      .next (({ s.afterQuiet 31 .initial with tracker := tracked.tracker } : State).respondOk 0#9 tracked.events) := by
  have hcollect := runAll_frameBits hconn hdecoder (by simp [hlength]) fun p hp => hlen p (List.mem_append_left _ hp)
  rw [hlength, List.nil_append] at hcollect
  have hresult := frameDecoder_lastResult last.bit (bits := ps.map RawPulse.bit) (by simpa using hlength)
  have hlast := exec_lastBit (s := s.afterQuiet 31 (frameDecoder (ps.map RawPulse.bit))) last.now hconn rfl
    (hlen last (by simp)) (by simp [frameDecoder, hlength]) hresult
  rw [List.map_append] at htracked ⊢
  rw [runAll_append_of_next hcollect, ← htracked]
  exact runAll_cons_of_next hlast

/-- Settles O48: whatever the validator answers, the tracker does its part. -/
theorem anyThirtyTwoBitsCompleteAFrame : Obligations.AnyThirtyTwoBitsCompleteAFrame := by
  intro ps last s hlength hlen hconn hdecoder bits answer tracked
  refine runAll_frame hlength hlen hconn hdecoder ?_
  change track s.tracker { decoder := .initial, result := answeredResult answer, repeated := false } last.now = tracked
  simp only [tracked]
  cases answer <;> rfl

/-! ## The round trip of a correct frame (spec 30 R84, spec 95 section 1) -/

/-- A protocol-correct bit as a measured pulse (spec 30 R84). -/
def rawBit (now : Time) (b : Bool) : RawPulse :=
  { mark := 560#32, space := if b then 1690#32 else 560#32, now := now }

theorem bitPulse_eq_txn (b : Bool) (now : Time) : bitPulse b now = (rawBit now b).txn := by
  cases b <;> rfl

theorem rawBit_length (now : Time) (b : Bool) : (rawBit now b).length = if b then 2250 else 1120 := by
  cases b <;> rfl

theorem rawBit_length_lt (now : Time) (b : Bool) : (rawBit now b).length < 2700 := by
  rw [rawBit_length]
  split_ifs <;> decide

theorem rawBit_bit (now : Time) (b : Bool) : (rawBit now b).bit = b := by
  rw [RawPulse.bit, rawBit_length]
  cases b <;> rfl

/-- The bits of a byte in the order they are sent, the uppermost first (spec 20 R51). -/
def sentBits (v : Byte) : List Bool :=
  [v.getLsbD 7, v.getLsbD 6, v.getLsbD 5, v.getLsbD 4, v.getLsbD 3, v.getLsbD 2, v.getLsbD 1, v.getLsbD 0]

theorem byteOfBits_sentBits (v : Byte) : byteOfBits (sentBits v) = v := by
  revert v
  decide

/-- The bits of a frame in the order they are sent (spec 30 R84). -/
def frameBits (p q c i : Byte) : List Bool :=
  sentBits p ++ sentBits q ++ sentBits c ++ sentBits i

theorem frame4Pulses_eq (p q c i : Byte) (now : Time) :
    frame4Pulses p q c i now = startPulse now :: ((frameBits p q c i).map (rawBit now)).map RawPulse.txn := by
  simp [frame4Pulses, bytePulses, frameBits, sentBits, bitPulse_eq_txn]

theorem frameAnswer_frameBits (p q c i : Byte) : frameAnswer (frameBits p q c i) = validate c i Config.known := by
  have hcommand : ((frameBits p q c i).drop 16).take 8 = sentBits c := rfl
  have hinverse : (frameBits p q c i).drop 24 = sentBits i := rfl
  rw [frameAnswer, hcommand, hinverse, byteOfBits_sentBits, byteOfBits_sentBits]

/-- A frame's 32 pulses, after its start, are 31 of bit length and a last one, all with the frame's clock. -/
theorem frameBits_pulses (p q c i : Byte) (now : Time) :
    ∃ ps last, (frameBits p q c i).map (rawBit now) = ps ++ [last] ∧ ps.length = 31 ∧ last.now = now ∧
      (∀ x ∈ ps ++ [last], x.length < 2700) ∧ (ps ++ [last]).map RawPulse.bit = frameBits p q c i := by
  refine ⟨((frameBits p q c i).take 31).map (rawBit now), rawBit now (i.getLsbD 0), rfl, rfl, rfl, ?_, ?_⟩
  · intro x hx
    have hx : x ∈ (frameBits p q c i).map (rawBit now) := hx
    obtain ⟨b, -, rfl⟩ := List.mem_map.1 hx
    exact rawBit_length_lt now b
  · change ((frameBits p q c i).map (rawBit now)).map RawPulse.bit = _
    rw [List.map_map]
    exact List.map_id'' (rawBit_bit now) _

/-- Settles O49: the start pulse opens the frame, and its 32 bits bring the command byte and its complement, which the
validator accepts; nothing is held, so it is a press. -/
theorem frameRoundTripPressesItsCommand : Obligations.FrameRoundTripPressesItsCommand := by
  intro p q c now s hconn hdecoder hidle
  obtain ⟨ps, last, hpulses, hlength, hnow, hlen, hbits⟩ := frameBits_pulses p q c (c ^^^ 0xFF#8) now
  have hstart : exec (startPulse now) s = .next (s.afterQuiet 1 (frameDecoder [])) := by
    have hopen := exec_startPulse (mark := 9000#32) (space := 4500#32) now hconn (by rw [hdecoder]; rfl)
      (by decide) (by decide)
    rwa [hdecoder] at hopen
  have htracked : track s.tracker
      { decoder := .initial
        result := answeredResult (frameAnswer ((ps ++ [last]).map RawPulse.bit))
        repeated := false } last.now = press s.tracker c now := by
    rw [hbits, frameAnswer_frameBits, validate_own_complement, hnow]
    exact onCommand_of_not_held (by simp [hidle])
  have hframe := runAll_frame (s := s.afterQuiet 1 (frameDecoder [])) hlength hlen hconn rfl htracked
  change runAll (frame4Pulses p q c (c ^^^ 0xFF#8) now) s = _
  rw [frame4Pulses_eq, hpulses, runAll_cons_of_next hstart, hframe, State.afterQuiet_afterQuiet,
    press_events_idle _ _ _ hidle, ← okResponse_pressed, hdecoder]
  rfl

end Sys2Proof.Machine

/-!
PROOFS. What a run leaves unseen and what it keeps: the decoder follows the `PULSE`s alone (spec 20 section 5), an idle
deadline is never observed (spec 10 section 3), `TICK`s release once (spec 43 R144), the deadline does not go back (spec
10 R32 (d)), and `POLL` answers once for the presses before it (spec 44 R165).
-/

namespace Sys2Proof.Machine

/-! ## Only `PULSE`s matter to the decoder (spec 20 section 5) -/

/-- What a connected `PULSE` makes of the decoder depends on the decoder alone. -/
theorem exec_pulse_decoder_eq {mark space : Duration} {now : Time} {s t s' : State}
    (hconn : s.connected = true) (hconn' : s'.connected = true) (hdecoder : s'.decoder = s.decoder)
    (h : exec (.pulse mark space now) s = .next t) :
    ∃ t', exec (.pulse mark space now) s' = .next t' ∧ t'.decoder = t.decoder := by
  obtain ⟨hdisc, -⟩ | ⟨-, a, ha, rfl⟩ := exec_pulse_cases h
  · cases hconn.symm.trans hdisc
  · rw [← hdecoder] at ha
    exact ⟨_, exec_pulse_of_assemble hconn' ha, rfl⟩

/-- Two connected states with the same decoder, one run with all the transactions and one with its `PULSE`s, end with
the same decoder. -/
theorem runAll_filter_isPulse_decoder {is : List Instr} {s t s' : State} (hconn : s.connected = true)
    (hconn' : s'.connected = true) (hdecoder : s'.decoder = s.decoder) (h : runAll is s = .next t) :
    ∃ t', runAll (is.filter isPulse) s' = .next t' ∧ t'.decoder = t.decoder := by
  induction is generalizing s s' with
  | nil => cases h; exact ⟨s', rfl, hdecoder⟩
  | cons i is ih =>
    obtain ⟨u, hu, hrest⟩ := exec_of_runAll_cons h
    have huconn := exec_keeps_connected hconn hu
    cases hpulse : isPulse i with
    | true =>
      obtain ⟨u', hu', hsame⟩ : ∃ u', exec i s' = .next u' ∧ u'.decoder = u.decoder := by
        cases i with
        | pulse => exact exec_pulse_decoder_eq hconn hconn' hdecoder hu
        | nop | connect | tick | poll | current | isPressed => cases hpulse
      obtain ⟨t', ht', hend⟩ := ih huconn (exec_keeps_connected hconn' hu') hsame hrest
      rw [List.filter_cons_of_pos hpulse]
      exact ⟨t', (runAll_cons_of_next hu').trans ht', hend⟩
    | false =>
      rw [List.filter_cons_of_neg (by simp [hpulse])]
      exact ih huconn hconn' (hdecoder.trans (exec_decoder_of_not_pulse hpulse hu).symm) hrest

/-- Settles O50. -/
theorem onlyPulsesMatterToTheDecoder : Obligations.OnlyPulsesMatterToTheDecoder :=
  fun _ _ _ hconn h => runAll_filter_isPulse_decoder hconn hconn rfl h

/-! ## The deadline of an idle tracker (spec 10 section 3) -/

/-- The tracker with another deadline. -/
def ButtonTrackerState.withDeadline (t : ButtonTrackerState) (d : Deadline) : ButtonTrackerState :=
  { t with repeatDeadline := d }

/-- The state with another deadline. -/
def State.withDeadline (s : State) (d : Deadline) : State :=
  { s with tracker := s.tracker.withDeadline d }

/-- The edge path on an idle tracker: a press, which writes the deadline, or nothing, which keeps either. -/
theorem track_withDeadline_of_idle {t : ButtonTrackerState} (a : Assembled) (now : Time) (d : Deadline)
    (hidle : t.activeCommand = none) :
    track (t.withDeadline d) a now = track t a now ∨
      (track t a now = { tracker := t, events := [] } ∧
        track (t.withDeadline d) a now = { tracker := t.withDeadline d, events := [] }) := by
  have hidle' : (t.withDeadline d).activeCommand = none := hidle
  cases hresult : a.result with
  | command c =>
    refine .inl ?_
    simp only [track, hresult]
    rw [onCommand_of_not_held (by simp [hidle']), onCommand_of_not_held (by simp [hidle])]
    rfl
  | incomplete | decodeFailed | aborted =>
    refine .inr ?_
    simp [track, hresult, onRepeat_of_idle hidle, onRepeat_of_idle hidle']

/-- One transaction from an idle state and from the same with another deadline: it makes the two equal, or leaves both
idle and still apart by that deadline alone. -/
theorem exec_withDeadline_of_idle {i : Instr} {s t : State} (d : Deadline) (hidle : s.tracker.activeCommand = none)
    (h : exec i s = .next t) :
    exec i (s.withDeadline d) = .next t ∨
      (t.tracker.activeCommand = none ∧ exec i (s.withDeadline d) = .next (t.withDeadline d)) := by
  cases i with
  | nop | connect | poll | current | isPressed => cases h; exact .inr ⟨hidle, rfl⟩
  | tick now =>
    refine .inr ?_
    obtain ⟨hdisc, rfl⟩ | ⟨hconn, rfl⟩ := exec_tick_cases h
    · exact ⟨hidle, exec_tick_of_disconnected hdisc⟩
    · have hquiet := onTimeout_of_idle_or_not_past (now := now) (.inl hidle)
      have hquiet' := onTimeout_of_idle_or_not_past (t := s.tracker.withDeadline d) (now := now) (.inl hidle)
      have hexec := exec_tick_of_connected (s := s.withDeadline d) (now := now) hconn
      rw [hquiet]
      exact ⟨hidle, hexec.trans (by rw [State.withDeadline, hquiet']; rfl)⟩
  | pulse mark space now =>
    obtain ⟨hdisc, rfl⟩ | ⟨hconn, a, ha, rfl⟩ := exec_pulse_cases h
    · exact .inr ⟨hidle, exec_pulse_of_disconnected mark space now hdisc⟩
    · have hexec := exec_pulse_of_assemble (s := s.withDeadline d) (now := now) hconn ha
      obtain hsame | ⟨hnone, hnone'⟩ := track_withDeadline_of_idle a now d hidle
      · exact .inl (hexec.trans (by rw [State.withDeadline, hsame]))
      · rw [hnone]
        exact .inr ⟨hidle, hexec.trans (by rw [State.withDeadline, hnone']; rfl)⟩

/-- Over a run, the two end equal, or idle and apart by the deadline alone. -/
theorem runAll_withDeadline_of_idle {is : List Instr} {s t : State} (d : Deadline)
    (hidle : s.tracker.activeCommand = none) (h : runAll is s = .next t) :
    runAll is (s.withDeadline d) = .next t ∨
      (t.tracker.activeCommand = none ∧ runAll is (s.withDeadline d) = .next (t.withDeadline d)) := by
  induction is generalizing s with
  | nil => cases h; exact .inr ⟨hidle, rfl⟩
  | cons i is ih =>
    obtain ⟨u, hu, hrest⟩ := exec_of_runAll_cons h
    obtain hsame | ⟨huidle, hu'⟩ := exec_withDeadline_of_idle d hidle hu
    · exact .inl ((runAll_cons_of_next hsame).trans hrest)
    · rw [runAll_cons_of_next hu']
      exact ih huidle hrest

/-- The sum-type reading of an idle tracker shows no deadline (spec 43 R140). -/
theorem mode_of_idle {t : ButtonTrackerState} (h : t.activeCommand = none) : t.mode = .idle := by
  rw [ButtonTrackerState.mode, h]

/-- Settles O51: what is left apart at the end is the deadline of an idle tracker. -/
theorem idleDeadlineIsUnobservable : Obligations.IdleDeadlineIsUnobservable := by
  intro is s d hidle
  obtain ⟨t, ht⟩ := runAll_completes is s
  obtain hsame | ⟨htidle, hu⟩ := runAll_withDeadline_of_idle d hidle ht
  · exact ⟨t, t, ht, hsame, rfl, rfl, rfl⟩
  · have hmode : (t.withDeadline d).tracker.mode = .idle := mode_of_idle htidle
    exact ⟨t, t.withDeadline d, ht, hu, rfl, rfl, hmode.trans (mode_of_idle htidle).symm⟩

/-! ## `TICK`s alone (spec 43 R144) -/

theorem eventsOf_replicate_quiet (n : Nat) : eventsOf (List.replicate n quietRsp) = [] := by
  have hquiet : responseEvents quietRsp = [] := responseEvents_okResponse_nil 0#9
  induction n with
  | zero => rfl
  | succ n ih => rw [List.replicate_succ, eventsOf_cons, hquiet, ih, List.append_nil]

/-- `TICK`s release nothing while nothing is held or none of them is past the deadline. -/
theorem runAll_ticks_quiet {ts : List Time} {s : State}
    (h : s.tracker.activeCommand = none ∨ ∀ u ∈ ts, u.toNat ≤ s.tracker.repeatDeadline.toNat) :
    runAll (ts.map Instr.tick) s = .next (s.afterQuiet ts.length s.decoder) := by
  rw [← List.length_map (as := ts) Instr.tick]
  refine runAll_unchanging fun i hi u _ _ htracker => ?_
  obtain ⟨now, hnow, rfl⟩ := List.mem_map.1 hi
  obtain ⟨-, htick⟩ := tickReleasesOnlyPastTheDeadline
  obtain ⟨-, hquiet⟩ := htick now u
  refine hquiet (.inr ?_)
  rw [htracker]
  exact h.imp id fun hall => hall now hnow

/-- The first `TICK` past the deadline releases the held command, and the others are quiet. -/
theorem runAll_ticks_release {ts : List Time} {s : State} {p : Byte} (hconn : s.connected = true)
    (hheld : s.tracker.activeCommand = some p) (hpast : ∃ u ∈ ts, s.tracker.repeatDeadline.toNat < u.toNat) :
    ∃ m n, runAll (ts.map Instr.tick) s =
      .next { s with
        tracker := { s.tracker with activeCommand := none }
        responses := s.responses ++ (List.replicate m quietRsp ++ releasedRsp p :: List.replicate n quietRsp) } := by
  induction ts generalizing s with
  | nil => simp at hpast
  | cons now ts ih =>
    obtain ⟨-, htick⟩ := tickReleasesOnlyPastTheDeadline
    obtain ⟨hrelease, hquiet⟩ := htick now s
    by_cases hnow : s.tracker.repeatDeadline.toNat < now.toNat
    · refine ⟨0, ts.length, ?_⟩
      rw [List.map_cons, runAll_cons_of_next (hrelease p hconn hheld hnow), runAll_ticks_quiet (.inl rfl)]
      simp [State.afterQuiet]
    · have hlater : ∃ u ∈ ts, s.tracker.repeatDeadline.toNat < u.toNat := by
        simpa [hnow] using hpast
      obtain ⟨m, n, hrest⟩ := ih (s := s.afterQuiet 1 s.decoder) hconn hheld hlater
      refine ⟨m + 1, n, ?_⟩
      rw [List.map_cons, runAll_cons_of_next (hquiet (.inr (.inr (Nat.le_of_not_lt hnow))))]
      refine hrest.trans ?_
      simp [State.afterQuiet, List.replicate_succ]

/-- Settles O52. -/
theorem ticksReleaseExactlyOnce : Obligations.TicksReleaseExactlyOnce := by
  intro ts s p hconn hheld
  by_cases hpast : ∃ u ∈ ts, s.tracker.repeatDeadline.toNat < u.toNat
  · obtain ⟨m, n, hrun⟩ := runAll_ticks_release hconn hheld hpast
    have hrelease : responseEvents (releasedRsp p) = [.released p] := by
      rw [← okResponse_released, responseEvents_okResponse_one]
    refine ⟨_, _, hrun, rfl, fun _ => ⟨?_, rfl⟩, fun hall => ?_⟩
    · simp [eventsOf_replicate_quiet, hrelease]
    · obtain ⟨u, hu, hlt⟩ := hpast
      exact absurd hlt (hall u hu).not_gt
  · have hall : ∀ u ∈ ts, u.toNat ≤ s.tracker.repeatDeadline.toNat := by simpa using hpast
    exact ⟨_, _, runAll_ticks_quiet (.inr hall), rfl, fun h => absurd h hpast,
      fun _ => ⟨eventsOf_replicate_quiet _, rfl⟩⟩

/-! ## The deadline under the clock premise (spec 10 R32 (d), spec 20 section 5) -/

/-- A transaction leaves the deadline, or is a `PULSE` that writes its own clock's. -/
theorem exec_deadline_cases {i : Instr} {s t : State} (h : exec i s = .next t) :
    t.tracker.repeatDeadline = s.tracker.repeatDeadline ∨
      ∃ mark space now, i = .pulse mark space now ∧ t.tracker.repeatDeadline.toNat = now.toNat + 120 := by
  by_cases hsame : t.tracker.repeatDeadline = s.tracker.repeatDeadline
  · exact .inl hsame
  · obtain ⟨r, -, heffect⟩ := exec_trackerEffect h
    obtain ⟨mark, space, now, hi, -, hdeadline, -⟩ := heffect.deadline_cause hsame
    exact .inr ⟨mark, space, now, hi, hdeadline ▸ deadlineFrom_toNat_eq_hold now⟩

/-- The clock a transaction leaves behind is not before the one it found, and is the stamp of a `PULSE`. -/
theorem clockFrom_cons {start : Nat} {i : Instr} {is : List Instr} (h : ClockFrom start (i :: is)) :
    ∃ start', start ≤ start' ∧ ClockFrom start' is ∧
      ∀ mark space now, i = .pulse mark space now → start' = now.toNat := by
  cases i with
  | nop | connect | poll | current | isPressed => exact ⟨start, le_rfl, h, nofun⟩
  | tick now =>
    obtain ⟨hle, hrest⟩ := h
    exact ⟨now.toNat, hle, hrest, nofun⟩
  | pulse mark space now =>
    obtain ⟨hle, hrest⟩ := h
    exact ⟨now.toNat, hle, hrest, fun _ _ _ heq => by cases heq; rfl⟩

/-- Settles O53: the deadline is never more than 120 past the clock, and a `PULSE` sets it to 120 past its own. -/
theorem deadlineNeverDecreasesUnderTheClockPremise : Obligations.DeadlineNeverDecreasesUnderTheClockPremise := by
  intro is
  induction is with
  | nil =>
    intro s t start _ _ h
    cases h
    exact le_rfl
  | cons i is ih =>
    intro s t start hstart hclock h
    obtain ⟨u, hu, hrest⟩ := exec_of_runAll_cons h
    obtain ⟨start', hle, hclock', hpulse⟩ := clockFrom_cons hclock
    have hstep : s.tracker.repeatDeadline.toNat ≤ u.tracker.repeatDeadline.toNat ∧
        u.tracker.repeatDeadline.toNat ≤ start' + 120 := by
      obtain hsame | ⟨mark, space, now, hi, hdeadline⟩ := exec_deadline_cases hu
      · rw [hsame]
        omega
      · have hstamp := hpulse mark space now hi
        omega
    obtain ⟨hkept, hbound⟩ := hstep
    exact hkept.trans (ih u t start' hbound hclock' hrest)

/-! ## `POLL` over a run (spec 44 R165) -/

theorem exec_poll_of_clear {s : State} (now : Time) (h : s.tracker.hasUnseenPress = false) :
    exec (.poll now) s = .next { s with responses := s.responses ++ [0x00000000#32] } := by
  have hclear : s.tracker.clearUnseen = s.tracker := by rw [ButtonTrackerState.clearUnseen, ← h]
  rw [exec_poll, hclear, h]
  rfl

theorem exec_poll_of_set {s : State} (now : Time) (h : s.tracker.hasUnseenPress = true) :
    exec (.poll now) s =
      .next { s with tracker := s.tracker.clearUnseen, responses := s.responses ++ [0x00100000#32] } := by
  rw [exec_poll, h]
  rfl

/-- The latch over a run: without a press it does not get set; without a `POLL` it stays set, and every press sets
it. -/
theorem runAll_latch {is : List Instr} {s t : State} (h : runAll is s = .next t) :
    ∃ rs, t.responses = s.responses ++ rs ∧
      ((∀ c, .pressed c ∉ eventsOf rs) → s.tracker.hasUnseenPress = false → t.tracker.hasUnseenPress = false) ∧
      ((∀ i ∈ is, ∀ n, i ≠ .poll n) → (s.tracker.hasUnseenPress = true ∨ ∃ c, .pressed c ∈ eventsOf rs) →
        t.tracker.hasUnseenPress = true) := by
  induction is generalizing s with
  | nil =>
    cases h
    exact ⟨[], (List.append_nil _).symm, fun _ => id, fun _ hset => hset.resolve_right (by simp)⟩
  | cons i is ih =>
    obtain ⟨u, hu, hrest⟩ := exec_of_runAll_cons h
    obtain ⟨r, hr, heffect⟩ := exec_trackerEffect hu
    obtain ⟨rs, hrs, hclear, hset⟩ := ih hrest
    have hlatch := heffect.hasUnseenPress_iff
    refine ⟨r :: rs, by rw [hrs, hr, List.append_assoc, List.singleton_append], fun hnone hs => ?_,
      fun hpoll hsome => ?_⟩
    · simp only [eventsOf_cons, List.mem_append, not_or, forall_and] at hnone
      obtain ⟨hfirst, hlater⟩ := hnone
      refine hclear hlater (Bool.eq_false_of_not_eq_true fun htrue => ?_)
      obtain ⟨-, hcause⟩ := hlatch.1 htrue
      simp [hs, hfirst] at hcause
    · refine hset (fun j hj => hpoll j (List.mem_cons_of_mem i hj)) ?_
      simp only [eventsOf_cons, List.mem_append, exists_or, ← or_assoc] at hsome
      exact hsome.imp (fun hfirst => hlatch.2 ⟨hpoll i List.mem_cons_self, hfirst⟩) id

/-- Settles O55: the first `POLL` clears the latch, and the run decides whether it is set at the next. -/
theorem pollAnswersTrueOncePerPress : Obligations.PollAnswersTrueOncePerPress := by
  intro is s t now now' now'' h
  obtain ⟨u, hu, hrest⟩ := exec_of_runAll_cons h
  cases (exec_poll now s).symm.trans hu
  obtain ⟨rs, hrs, hclear, hset⟩ := runAll_latch hrest
  refine ⟨_, rs, hrs.trans (List.append_assoc ..), fun hnone => ?_, fun hnoPoll hsome => ?_⟩
  · exact exec_poll_of_clear now' (hclear hnone rfl)
  · rw [runAll_cons_of_next (exec_poll_of_set now' (hset hnoPoll (.inr hsome))),
      runAll_cons_of_next (exec_poll_of_clear now'' rfl)]
    simp only [List.append_assoc]
    rfl

end Sys2Proof.Machine
